-- ==== Sys2Proof/Word.lean ====
section
/-! DEFINITION. The value types of the block (00_scope.md R6, 30_encoding.md R70, R73, R75).
Commands, configuration bytes and flags have fixed widths and are bit vectors. Times and cursors have
widths set by the parameters `W` and `N` (R4), so they are natural numbers (log 5, DESIGN CHOICE, safe), kept in range by the
invariant `Safety.Inv`; their arithmetic is in `Machine/Operands.lean`. -/

namespace Sys2Proof

/-- The command word `CMD[10:0]` (R70). -/
abbrev CmdWord := BitVec 11

/-- One received configuration byte `c` (R73). -/
abbrev ConfigByte := BitVec 8

/-- The 6-bit flag value `f` (R75). -/
abbrev Flag := BitVec 6

end Sys2Proof
end

