-- ==== Sys2Proof/Config.lean ====
section
/-! DEFINITION. What an implementation fixes (00_scope.md R4) and what the environment chooses
(60_exceptions.md R208, R213 to R217). The parameter record is carried in the state (log 1, DESIGN CHOICE, safe); the
environment's unplanned choices are the one opaque constant `Config.envDraw` (log 3, DESIGN CHOICE, safe). -/

namespace Sys2Proof

/-- `POLL_MODE` (R4, D15). -/
inductive PollMode where
  | interleaved
  | atomic
deriving DecidableEq, Repr, Inhabited

/-- `CFG_HIGH_POLICY` (R4, R182, D9). -/
inductive HighPolicy where
  | mask
  | ignore
deriving DecidableEq, Repr, Inhabited

/-- The three interrupt sources (R202). -/
inductive Source where
  | rise
  | fall
  | rx
deriving DecidableEq, Repr, Inhabited

/-- The fixed total orders of the three sources, highest first (R206, log 16, DEDUCED, safe). -/
inductive SourceOrder where
  | riseFallRx
  | riseRxFall
  | fallRiseRx
  | fallRxRise
  | rxRiseFall
  | rxFallRise
deriving DecidableEq, Repr, Inhabited

/-- `SERVICE_ORDER` (R4, R206, D14). -/
inductive ServiceOrder where
  | any
  | fixed (order : SourceOrder)
deriving DecidableEq, Repr, Inhabited

/-- The parameter record (R4). Whether a record is well formed (R5) is `Machine.paramsOk`. -/
structure Params where
  /-- `N`, the capacity in slots. -/
  n : Nat
  /-- `W`, the width of a timestamp, of `now` and of `LAT`. -/
  w : Nat
  /-- `DELAY_FACTOR`, the linear-mode step in ms. -/
  delayFactor : Nat
  /-- `EXP0_EXPONENT`, the exponent used when `EXP = 0`. -/
  exp0Exponent : Nat
  /-- `CFG_HIGH_POLICY`. -/
  highPolicy : HighPolicy
  /-- `RESET_FLAG`. -/
  resetFlag : Flag
  /-- `POLL_MODE`. -/
  pollMode : PollMode
  /-- `HAS_OVF_COUNTER`. -/
  hasOvfCounter : Bool
  /-- `OVF_WIDTH`. -/
  ovfWidth : Nat
  /-- `SERVICE_ORDER`. -/
  serviceOrder : ServiceOrder
deriving DecidableEq, Repr, Inhabited

/-- The values of the R4 table, with `N`, which the table leaves OPEN, as an argument. -/
def Params.standard (n : Nat) : Params where
  n := n
  w := 32
  delayFactor := 20
  exp0Exponent := 1
  highPolicy := .mask
  resetFlag := 0x00#6
  pollMode := .interleaved
  hasOvfCounter := false
  ovfWidth := 16
  serviceOrder := .any

/-- DESIGN CHOICE, unsafe for claims about the one run from `State.reset` (log 2): the capacity of the
machine `State.reset` describes. The spec gives none (R4, G4); 8 is the capacity of its §8 scenario. -/
def Config.resetCapacity : Nat := 8

/-- One step of a run, by whichever agent takes it (R208). -/
inductive Event where
  /-- A command word is presented and executed (R70). -/
  | command (w : CmdWord)
  /-- A rising edge arrives (R203, R213). -/
  | edgeRise
  /-- A falling edge arrives (R203, R213). -/
  | edgeFall
  /-- A configuration byte arrives (R203, R214). -/
  | byteArrives (c : ConfigByte)
  /-- The interrupt engine services a pending source (R204). -/
  | service (src : Source)
  /-- Power-on reset (R217, R230). -/
  | powerOn
deriving DecidableEq, Repr, Inhabited

/-- A step together with its clock draw: `elapsed` is `T_k - T_(k-1)`, so that the times never
decrease (R215, C11). -/
structure Stimulus where
  elapsed : Nat
  event   : Event
deriving DecidableEq, Repr, Inhabited

/-- Free value (log 3, DESIGN CHOICE, safe): the environment's `k`-th unplanned choice of agent, event and clock advance.
It has no body, so nothing can be proved about it and a claim holds for every environment. -/
opaque Config.envDraw : Nat → Stimulus

end Sys2Proof
end

