-- ==== Sys2Proof/Machine/Operands.lean ====
section
/-! DEFINITION. The arithmetic on times and cursors (00_scope.md R6, 20_memory.md R56 to R58), and the
well-formedness of a parameter set (00_scope.md R5). -/

namespace Sys2Proof.Machine

/-- `a +_W b` (R6). -/
def addW (w : Nat) (a b : Nat) : Nat := (a + b) % 2 ^ w

/-- `a −_W b` (R6): the remainder of `a − b` modulo `2^W`, in natural-number arithmetic. -/
def subW (w : Nat) (a b : Nat) : Nat := (a + (2 ^ w - b % 2 ^ w)) % 2 ^ w

/-- The wrap-safe due test `due(ts, t)` (R56). -/
def due (w : Nat) (ts t : Nat) : Bool := decide (subW w t ts < 2 ^ (w - 1))

/-- The cursor increment `inc(i)` (R57). -/
def inc (n : Nat) (i : Nat) : Nat := (i + 1) % n

/-- The target time of an edge serviced at `now` (R58). -/
def target (w : Nat) (now lat : Nat) : Nat := addW w now lat

/-- The well-formedness conditions of R5, in its order. `W ≥ 14` makes `W − 1` exact. -/
def paramsOk (p : Params) : Bool :=
  decide (p.n % 2 = 0) && decide (2 ≤ p.n) && decide (14 ≤ p.w) && decide (1 ≤ p.delayFactor) &&
    decide (15 * p.delayFactor < 2 ^ (p.w - 1)) && decide (8 * 1000 < 2 ^ (p.w - 1)) &&
    decide (8 * p.exp0Exponent < 2 ^ (p.w - 1)) && decide (1 ≤ p.ovfWidth)

end Sys2Proof.Machine
end

