-- ==== Sys2Proof/Machine/FlagDecoder.lean ====
section
/-! DEFINITION. The configuration decoder `DECODE` (41_config_decoder.md R100 to R106) and the
classification of a received byte (30_encoding.md R73, R74; 45_config_channel.md R181, R182). -/

namespace Sys2Proof.Machine

/-- The triple `DECODE` returns (R100). -/
structure Decoded where
  enabled   : Bool
  hasDelay  : Bool
  latencyMs : Nat
deriving DecidableEq, Repr

/-- `EXPONENT(EXP)` (R106): the parameter at `EXP = 0`, then 10, 100, 1000. -/
def exponentOf (p : Params) (e : BitVec 2) : Nat :=
  if e = 0#2 then p.exp0Exponent else if e = 1#2 then 10 else if e = 2#2 then 100 else 1000

/-- `FRACTION(FRAC)`, the enumeration of R105 (90_conflicts.md C1). -/
def fractionOf (r : BitVec 2) : Nat :=
  (if r.getLsbD 1 then 4 else 1) * (if r.getLsbD 0 then 2 else 1)

/-- `DECODE(f)` (R100): direct path R102, linear mode R103, exponential mode R104. -/
def decodeFlag (p : Params) (f : Flag) : Decoded :=
  let enabled := f.getLsbD 5
  let delay := f.extractLsb' 0 4
  if delay = 0#4 then ⟨enabled, false, 0⟩
  else if f.getLsbD 4 = false then ⟨enabled, true, p.delayFactor * delay.toNat⟩
  else ⟨enabled, true, exponentOf p (f.extractLsb' 2 2) * fractionOf (f.extractLsb' 0 2)⟩

/-- `FlagOf(c)` for `c ≥ 0x20` (R74): `c − 0x20` modulo 64, which for `c ≤ 0x5F` is `c − 0x20`. -/
def flagOf (c : ConfigByte) : Flag := (c - 0x20#8).extractLsb' 0 6

/-- The three classes of a configuration byte (R73, R181). -/
inductive ByteClass where
  | ign
  | load
  | high
deriving DecidableEq, Repr

def classOf (c : ConfigByte) : ByteClass :=
  if c.toNat < 0x20 then .ign else if c.toNat < 0x60 then .load else .high

/-- The flag a received byte loads, if it loads one (R180, R182): CFG.IGN bytes never do, CFG.LOAD
bytes always, CFG.HIGH bytes under MASK only. -/
def flagLoaded (p : Params) (c : ConfigByte) : Option Flag :=
  match classOf c with
  | .ign => none
  | .load => some (flagOf c)
  | .high => match p.highPolicy with
    | .mask => some (flagOf c)
    | .ignore => none

end Sys2Proof.Machine
end

