-- ==== Sys2Proof/Machine/State.lean ====
section
/-! DEFINITION. The state of the block and its platform (10_state.md R20 to R31), the reasons a step can
stop (60_exceptions.md R201), and the state after power-on reset (10_state.md R37). -/

namespace Sys2Proof.Machine

/-- The slot array (R23): the written slots as (index, timestamp), indices strictly rising. An index not
listed is an unwritten slot, which holds no value (log 6, DESIGN CHOICE, safe). -/
abbrev Memory := List (Nat × Nat)

/-- The dispatcher phase `DPH` (R29). -/
inductive Phase where
  | idle
  | snap
  | time
  | test
  | commit
  | par
  | drive
deriving DecidableEq, Repr, Inhabited

/-- The dispatcher locals (R30), as a fault names them. -/
inductive Local where
  | rL
  | tL
  | pL
deriving DecidableEq, Repr

structure State where
  /-- The parameters (R4); no step changes them (R233, log 1, DESIGN CHOICE, safe). -/
  par : Params
  /-- `RD`, the reader cursor (R21). -/
  rd : Nat
  /-- `WR`, the writer cursor (R22). -/
  wr : Nat
  /-- `SLOT[0..N−1]` (R23). -/
  slots : Memory
  /-- `EN` (R25). -/
  en : Bool
  /-- `HD` (R26). -/
  hd : Bool
  /-- `LAT` (R24). -/
  lat : Nat
  /-- `OUT`, true when asserted (R27). -/
  out : Bool
  /-- `OVF_COUNT`; stays 0 when `HAS_OVF_COUNTER` is false (R28, log 13, DESIGN CHOICE, safe). -/
  ovfCount : Nat
  /-- `DPH` (R29). -/
  dph : Phase
  /-- `r_l`, `none` when unwritten (R30, log 8, DEDUCED, safe). -/
  rL : Option Nat
  /-- `t_l`, `none` when unwritten (R30, log 8, DEDUCED, safe). -/
  tL : Option Nat
  /-- `p_l`, `none` when unwritten (R30, log 8, DEDUCED, safe). -/
  pL : Option Bool
  /-- `PEND_RISE` (R31). -/
  pendRise : Bool
  /-- `PEND_FALL` (R31). -/
  pendFall : Bool
  /-- `SERQ`, oldest byte first (R31). -/
  serq : List ConfigByte
  /-- The unbounded time `T_k` of the latest step (R215, log 4, DESIGN CHOICE, unsafe at reset). -/
  clock : Nat
  /-- The steps the environment has planned, next first (R208, log 3, DESIGN CHOICE, safe). -/
  schedule : List Stimulus
  /-- How many unplanned steps have been drawn from `Config.envDraw` (log 3, DESIGN CHOICE, safe). -/
  draws : Nat
deriving DecidableEq, Repr

/-- Why a run ends. Each is safe: the model stops where the hardware may go on, so no false claim about
the rest of the run can be proved. -/
inductive Fault where
  /-- Code 4 of R201: `SlotRead` of a slot nothing has written (R52), in a TEST micro-step or in ADV.
  Safe; reachable only through the lost-reset race of R239. -/
  | unwrittenSlotRead (i : Nat)
  /-- A slot index outside `[0, N)`. Raised by `slotRead` and `slotWrite`; R55 says none arises, and
  none does under `Safety.Inv`. Safe. -/
  | slotOutOfRange (i : Nat)
  /-- A micro-step reads a dispatcher local no micro-step has written (93_implementation_defined.md
  I3). Raised by TEST, COMMIT and DRIVE; unreachable under `Safety.Inv`. Safe. -/
  | unwrittenLocal (l : Local)
  /-- A dispatcher iteration did not end within the bound of R172. Raised by POLL; unreachable under
  `Safety.Inv`. Safe. -/
  | dispatcherDiverges
deriving DecidableEq, Repr

/-- Why an input has no meaning (R201): there is no next state, and the refusal records the input. Each
is safe: the model has no run there. -/
inductive Refusal where
  /-- An instruction the model gives no meaning yet. Raised by `exec`'s arm only. Safe. -/
  | notModelled (mnemonic : String)
  /-- Code 1: `OP` is 110 or 111 (R191). Raised by RESERVED_OP words. Safe. -/
  | reservedOp (w : CmdWord)
  /-- Code 2: nonzero `DATA` on an operation other than CFG (R192). Safe. -/
  | nonzeroData (w : CmdWord)
  /-- Code 3: PSTEP when `POLL_MODE` is ATOMIC (R193). Safe. -/
  | pstepInAtomic (w : CmdWord)
  /-- Code 5: the parameter set is not well formed (R5). Raised before any step runs. Safe. -/
  | badParameters (p : Params)
  /-- The schedule asks for a service step the interrupt engine does not have: the source is not
  pending, or a higher one is under a fixed order (R204, R206, log 10, DESIGN CHOICE, safe). Safe. -/
  | noServiceStep (src : Source)
deriving DecidableEq, Repr

/-- The table of R37 for a parameter set, at the clock value `t`, with nothing planned. -/
def State.powerOn (p : Params) (t : Nat) : State :=
  let d := decodeFlag p p.resetFlag
  { par := p
    rd := 0
    wr := 0
    slots := []
    en := d.enabled
    hd := d.hasDelay
    lat := d.latencyMs
    out := false
    ovfCount := 0
    dph := .idle
    rL := none
    tL := none
    pL := none
    pendRise := false
    pendFall := false
    serq := []
    clock := t
    schedule := []
    draws := 0 }

/-- The machine right after reset (R37) with the parameter values of R4 and, N being OPEN, the capacity
of log 2. The clock starts at 0 (log 4, DESIGN CHOICE, unsafe at reset) and nothing is planned (log 3, DESIGN CHOICE, safe). -/
def State.reset : State := State.powerOn (Params.standard Config.resetCapacity) 0

end Sys2Proof.Machine
end

