-- ==== Sys2Proof/Machine/Flags.lean ====
section
/-! DEFINITION. The derived values the block's behaviour turns on. There are no condition codes
(10_state.md R32); these are functions of the state, stored nowhere (R33, R34). -/

namespace Sys2Proof.Machine

/-- The parity of a cursor: true when odd (R32). -/
def parity (i : Nat) : Bool := decide (i % 2 = 1)

/-- The two edge roles (00_scope.md R8). -/
inductive Role where
  | on
  | off
deriving DecidableEq, Repr

/-- `ON = 0`, `OFF = 1` (R8). -/
def roleNumber : Role → Nat
  | .on => 0
  | .off => 1

/-- The role of the slot at an index, `i mod 2` (R8, R51). -/
def slotRole (i : Nat) : Role := if i % 2 = 0 then .on else .off

/-- The compensation condition `WR mod 2 ≠ (role + 1) mod 2`, read after the first push
(42_scheduler.md R122). -/
def needsCompensation (role : Role) (wr : Nat) : Bool :=
  decide (wr % 2 ≠ (roleNumber role + 1) % 2)

/-- The operating mode (R33). -/
inductive Mode where
  | disabled
  | direct
  | delayed
deriving DecidableEq, Repr

def modeOf (s : State) : Mode :=
  if s.en = false then .disabled else if s.hd = false then .direct else .delayed

/-- The occupancy the cursors show, `(WR − RD) mod N` (R34). -/
def occupancy (s : State) : Nat := (s.wr + (s.par.n - s.rd % s.par.n)) % s.par.n

/-- The clock sample of a step: `now = T_k mod 2^W` (60_exceptions.md R215). -/
def nowOf (s : State) : Nat := s.clock % 2 ^ s.par.w

end Sys2Proof.Machine
end

