-- ==== Sys2Proof/Machine/Ops.lean ====
section
/-! DEFINITION. The named operations over slots, cursors, configuration and pending state. The block
takes no exception (60_exceptions.md R200): what the platform enters is an interrupt service (R204),
whose shared entry is `acceptSource` here, and which has no return (R210). -/

namespace Sys2Proof.Machine

/-- A step's answer. -/
abbrev Result := Host.Outcome State Fault Refusal

/-- Go on from a next state; a fault or a refusal stands. -/
def andThen (r : Result) (k : State → Result) : Result :=
  match r with
  | .next s => k s
  | .fault f => .fault f
  | .refused x => .refused x

/-- The next state, if the answer is one. -/
def nextOf : Result → Option State
  | .next s => some s
  | .fault _ => none
  | .refused _ => none

/-- The fault, if the answer is one. -/
def faultOf : Result → Option Fault
  | .next _ => none
  | .fault f => some f
  | .refused _ => none

/-- The refusal, if the answer is one. -/
def refusalOf : Result → Option Refusal
  | .next _ => none
  | .fault _ => none
  | .refused x => some x

/-- The codes of 60_exceptions.md R201. A stop that is the model's own has none. -/
def refusalCode : Refusal → Option Nat
  | .reservedOp _ => some 1
  | .nonzeroData _ => some 2
  | .pstepInAtomic _ => some 3
  | .badParameters _ => some 5
  | _ => none

/-- The fault code of R201. -/
def faultCode : Fault → Option Nat
  | .unwrittenSlotRead _ => some 4
  | .slotOutOfRange _ => none
  | .unwrittenLocal _ => none
  | .dispatcherDiverges => none

/-! ### The slot array -/

/-- The value last written at an index, if any (20_memory.md R52). -/
def Memory.read : Memory → Nat → Option Nat
  | [], _ => none
  | (j, v) :: m, i => if i = j then some v else Memory.read m i

/-- Write a slot, keeping the list sorted by index (R53). -/
def Memory.write : Memory → Nat → Nat → Memory
  | [], i, v => [(i, v)]
  | (j, u) :: m, i, v =>
    if i < j then (i, v) :: (j, u) :: m
    else if i = j then (i, v) :: m
    else (j, u) :: Memory.write m i v

/-- The canonical form: indices strictly rising. -/
def Memory.wf : Memory → Bool
  | [] => true
  | (i, _) :: m => m.all (fun c => decide (i < c.1)) && Memory.wf m

/-- Every listed slot exists and holds a `W`-bit value (R23, R50). -/
def Memory.bounded (n w : Nat) (m : Memory) : Bool :=
  m.all fun c => decide (c.1 < n) && decide (c.2 < 2 ^ w)

/-- `SlotRead(i)` (R52): fault 4 when the slot is unwritten; an index outside the array is a fault of its
own (log 7, DESIGN CHOICE, safe). -/
def slotRead (i : Nat) (s : State) : Except Fault Nat :=
  if i < s.par.n then
    match Memory.read s.slots i with
    | some v => .ok v
    | none => .error (.unwrittenSlotRead i)
  else .error (.slotOutOfRange i)

/-- `SlotWrite(i, v)` (R53), with the same fault for an index outside the array. -/
def slotWrite (i : Nat) (v : Nat) (s : State) : Result :=
  if i < s.par.n then .next { s with slots := Memory.write s.slots i v }
  else .fault (.slotOutOfRange i)

/-! ### The scheduler -/

/-- The overflow count after a push (42_scheduler.md R123): only when the counter exists, one more when
the writer has caught up with the reader, saturating. -/
def countOverflow (s : State) : State :=
  if s.par.hasOvfCounter && decide (s.wr = s.rd) then
    { s with ovfCount := min (s.ovfCount + 1) (2 ^ s.par.ovfWidth - 1) }
  else s

/-- The state after the slot write of `PUSH`: the writer advances and an overflow is counted (R121). -/
def advanceWriter (s : State) : State := countOverflow { s with wr := inc s.par.n s.wr }

/-- `PUSH(t)` (R121). -/
def push (t : Nat) (s : State) : Result :=
  andThen (slotWrite s.wr t s) fun s1 => .next (advanceWriter s1)

/-- `ENQ(role, t)` (R120): one push, and the compensation write when R122 asks for it. -/
def enqueue (role : Role) (t : Nat) (s : State) : Result :=
  andThen (push t s) fun s1 =>
    if needsCompensation role s1.wr then push t s1 else .next s1

/-- The loop of `ADV(t)` (R124): pop while the head is visible and due. At most `N − 1` entries are
visible (R34), so `N` turns of the loop are enough wherever the cursors are in range (log 9, DESIGN CHOICE, safe). -/
def advanceLoop : Nat → Nat → State → Result
  | 0, _, _ => .fault .dispatcherDiverges
  | fuel + 1, t, s =>
    if s.rd = s.wr then .next s
    else match slotRead s.rd s with
      | .error f => .fault f
      | .ok ts =>
        if due s.par.w ts t then advanceLoop fuel t { s with rd := inc s.par.n s.rd }
        else .next s

/-- `ADV(t)` (R124); the parity it returns is that of the `RD` it leaves. -/
def advance (t : Nat) (s : State) : Result := advanceLoop s.par.n t s

/-- `QRESET()` (R126): both cursors to 0 and nothing else. -/
def qreset (s : State) : State := { s with rd := 0, wr := 0 }

/-! ### Configuration -/

/-- Replace `EN`, `HD` and `LAT` together (10_state.md R40). -/
def loadConfig (d : Decoded) (s : State) : State :=
  { s with en := d.enabled, hd := d.hasDelay, lat := d.latencyMs }

/-- Drive the output (60_exceptions.md R216). -/
def driveOut (level : Bool) (s : State) : State := { s with out := level }

/-- The effect of a loading CFG (45_config_channel.md R180): configuration, queue reset, output low. It
leaves `PEND_RISE` and `PEND_FALL` as they are (the table of R231); how this agrees with R232's 'do not
carry over' is log 20 (DEDUCED, unsafe). -/
def configure (f : Flag) (s : State) : State :=
  driveOut false (qreset (loadConfig (decodeFlag s.par f) s))

/-- The handler of one received byte (R180, R181, R182): ignored, or loaded. -/
def serveByte (c : ConfigByte) (s : State) : State :=
  match flagLoaded s.par c with
  | none => s
  | some f => configure f s

/-! ### Edges, pending state and reset -/

/-- The action of an edge handler (43_edge_capture.md R142): nothing when disabled, an enqueue at
`now +_W LAT` when delayed, the level itself when direct. `level` is what the edge asserts. -/
def edgeHandler (role : Role) (level : Bool) (s : State) : Result :=
  match modeOf s with
  | .disabled => .next s
  | .delayed => enqueue role (target s.par.w (nowOf s) s.lat) s
  | .direct => .next (driveOut level s)

/-- Whether a source is pending (60_exceptions.md R202). -/
def isPending (s : State) : Source → Bool
  | .rise => s.pendRise
  | .fall => s.pendFall
  | .rx => !s.serq.isEmpty

/-- The sources of a fixed order, highest first (R206). -/
def orderList : SourceOrder → List Source
  | .riseFallRx => [.rise, .fall, .rx]
  | .riseRxFall => [.rise, .rx, .fall]
  | .fallRiseRx => [.fall, .rise, .rx]
  | .fallRxRise => [.fall, .rx, .rise]
  | .rxRiseFall => [.rx, .rise, .fall]
  | .rxFallRise => [.rx, .fall, .rise]

/-- Whether the interrupt engine may service a source now (R206): any pending source under ANY, the
highest pending one under a fixed order. -/
def mayService (s : State) (src : Source) : Bool :=
  match s.par.serviceOrder with
  | .any => isPending s src
  | .fixed o => decide ((orderList o).find? (isPending s) = some src)

/-- The shared entry of an interrupt service (R204): clear the source, or take the head of `SERQ`.
Nothing else changes and nothing is saved (R209). -/
def acceptSource (src : Source) (s : State) : State :=
  match src with
  | .rise => { s with pendRise := false }
  | .fall => { s with pendFall := false }
  | .rx => { s with serq := s.serq.tail }

/-- An edge arrival sets its pending bit; a second one is lost (R203). -/
def edgeArrives (role : Role) (s : State) : State :=
  match role with
  | .on => { s with pendRise := true }
  | .off => { s with pendFall := true }

/-- A received byte waits at the end of `SERQ` (R203, R207). -/
def byteArrives (c : ConfigByte) (s : State) : State := { s with serq := s.serq ++ [c] }

/-- Power-on reset in the course of a run (70_reset_and_hazards.md R230): the table of R37, with the
parameters, the clock and the environment's plan as they were. -/
def powerOnReset (s : State) : State :=
  { State.powerOn s.par s.clock with schedule := s.schedule, draws := s.draws }

/-- The clock draw of a step (R215): the time advances by `elapsed`, possibly 0. -/
def advanceClock (elapsed : Nat) (s : State) : State := { s with clock := s.clock + elapsed }

end Sys2Proof.Machine
end

