-- ==== Sys2Proof/Machine/ConfigChannel.lean ====
section
/-! DEFINITION. The configuration command CFG (45_config_channel.md R180 to R182), one meaning per row
of the opcode table. Each puts the row's fixed bits before its argument to give the byte `c`. -/

namespace Sys2Proof.Machine

/-- CFG.IGN, bytes `0x00` to `0x1F`. -/
def execCfgIgn (c : BitVec 5) (s : State) : Result := .next (serveByte (0b000#3 ++ c) s)

/-- CFG.LOAD, bytes `0x20` to `0x3F`. -/
def execCfgLoadLow (c : BitVec 5) (s : State) : Result := .next (serveByte (0b001#3 ++ c) s)

/-- CFG.LOAD, bytes `0x40` to `0x5F`. -/
def execCfgLoadHigh (c : BitVec 5) (s : State) : Result := .next (serveByte (0b010#3 ++ c) s)

/-- CFG.HIGH, bytes `0x60` to `0x7F`. -/
def execCfgHighLow (c : BitVec 5) (s : State) : Result := .next (serveByte (0b011#3 ++ c) s)

/-- CFG.HIGH, bytes `0x80` to `0xFF`. -/
def execCfgHighTop (c : BitVec 7) (s : State) : Result := .next (serveByte (0b1#1 ++ c) s)

end Sys2Proof.Machine
end

