-- ==== Sys2Proof/Syntax.lean ====
section
/-! DEFINITION. The instruction set: one constructor per row of spec/opcode_table.json, in the table's
order (30_encoding.md R70 to R78), and the pseudo-instructions of R80. A row's don't-care bits are the
constructor's argument, so no bit of a word is lost by decoding it. -/

namespace Sys2Proof

inductive Instr where
  /-- `NOP`, word `0x000` (R190). -/
  | nop
  /-- `POLL`, word `0x100` (R160, R161). -/
  | poll
  /-- `RISE`, word `0x200` (R140). -/
  | rise
  /-- `FALL`, word `0x300` (R141). -/
  | fall
  /-- `CFG.IGN`, words `0x400` to `0x41F`; `c` is `CMD[4:0]` (R180). -/
  | cfgIgn (c : BitVec 5)
  /-- `CFG.LOAD`, words `0x420` to `0x43F`; `c` is `CMD[4:0]` (R180). -/
  | cfgLoadLow (c : BitVec 5)
  /-- `CFG.LOAD`, words `0x440` to `0x45F`; `c` is `CMD[4:0]` (R180). -/
  | cfgLoadHigh (c : BitVec 5)
  /-- `CFG.HIGH`, words `0x460` to `0x47F`; `c` is `CMD[4:0]` (R182). -/
  | cfgHighLow (c : BitVec 5)
  /-- `CFG.HIGH`, words `0x480` to `0x4FF`; `c` is `CMD[6:0]` (R182). -/
  | cfgHighTop (c : BitVec 7)
  /-- `PSTEP`, word `0x500` (R162). -/
  | pstep
  /-- `RESERVED_OP`, words `0x600` to `0x7FF`; `x` is `CMD[8:0]` (R191). -/
  | reservedOp (x : BitVec 9)
  /-- `NONZERO_DATA` with `OP = 000`, words `0x001` to `0x0FF` (R192). -/
  | nonzeroNop (d : BitVec 8)
  /-- `NONZERO_DATA` with `OP = 001`, words `0x101` to `0x1FF` (R192). -/
  | nonzeroPoll (d : BitVec 8)
  /-- `NONZERO_DATA` with `OP = 010`, words `0x201` to `0x2FF` (R192). -/
  | nonzeroRise (d : BitVec 8)
  /-- `NONZERO_DATA` with `OP = 011`, words `0x301` to `0x3FF` (R192). -/
  | nonzeroFall (d : BitVec 8)
  /-- `NONZERO_DATA` with `OP = 101`, words `0x501` to `0x5FF` (R192). -/
  | nonzeroPstep (d : BitVec 8)
deriving DecidableEq, Repr, Inhabited

/-- The pseudo-instructions of R80; each stands for one CFG word. -/
inductive Pseudo where
  | setf (f : Flag)
  | disable
  | direct
  | lin (k : BitVec 4)
  | expo (e r : BitVec 2)
deriving DecidableEq, Repr, Inhabited

end Sys2Proof
end

