-- ==== Sys2Proof/WellFormed.lean ====
section
/-! DEFINITION. Which terms of the syntax stand for a word of their row. -/

namespace Sys2Proof

/-- A `NONZERO_DATA` row matches only words with `DATA ≠ 0x00`, since the zero-data word belongs to an
earlier row of the table (30_encoding.md R72, 46_idle_and_reserved.md R192). Every other constructor's
argument may take every value. -/
def Instr.wf : Instr → Bool
  | .nop => true
  | .poll => true
  | .rise => true
  | .fall => true
  | .cfgIgn _ => true
  | .cfgLoadLow _ => true
  | .cfgLoadHigh _ => true
  | .cfgHighLow _ => true
  | .cfgHighTop _ => true
  | .pstep => true
  | .reservedOp _ => true
  | .nonzeroNop d => d != 0x00#8
  | .nonzeroPoll d => d != 0x00#8
  | .nonzeroRise d => d != 0x00#8
  | .nonzeroFall d => d != 0x00#8
  | .nonzeroPstep d => d != 0x00#8

/-- The operand ranges of the R80 table: `1 ≤ k` for `LIN k`, `(e, r) ≠ (0, 0)` for `EXPO e, r`. -/
def Pseudo.wf : Pseudo → Bool
  | .setf _ => true
  | .disable => true
  | .direct => true
  | .lin k => k != 0#4
  | .expo e r => e != 0#2 || r != 0#2

end Sys2Proof
end

