-- ==== Sys2Proof/Decode.lean ====
section
/-! DEFINITION. The command decoder (30_encoding.md R78), the encoder written from the table's
encodings, and the table itself as data. `decode` is total on the 2048 words: the reserved ones decode
to the constructors of their rows, whose meanings refuse (46_idle_and_reserved.md R191, R192). -/

namespace Sys2Proof

/-- `OP = CMD[10:8]` (R70). -/
def opField (w : CmdWord) : BitVec 3 := w.extractLsb' 8 3

/-- `DATA = CMD[7:0]` (R70). -/
def dataField (w : CmdWord) : BitVec 8 := w.extractLsb' 0 8

/-- The CFG row a configuration byte belongs to, by `DATA[7:5]` (R73). -/
def decodeConfigByte (c : ConfigByte) : Instr :=
  let top := c.extractLsb' 5 3
  let low := c.extractLsb' 0 5
  if top = 0b000#3 then .cfgIgn low
  else if top = 0b001#3 then .cfgLoadLow low
  else if top = 0b010#3 then .cfgLoadHigh low
  else if top = 0b011#3 then .cfgHighLow low
  else .cfgHighTop (c.extractLsb' 0 7)

/-- The decoder, in the order R78 gives: CFG first, then the reserved operations, then nonzero data. -/
def decode (w : CmdWord) : Instr :=
  let op := opField w
  let d := dataField w
  if op = 0b100#3 then decodeConfigByte d
  else if op = 0b110#3 ∨ op = 0b111#3 then .reservedOp (w.extractLsb' 0 9)
  else if d ≠ 0x00#8 then
    if op = 0b000#3 then .nonzeroNop d
    else if op = 0b001#3 then .nonzeroPoll d
    else if op = 0b010#3 then .nonzeroRise d
    else if op = 0b011#3 then .nonzeroFall d
    else .nonzeroPstep d
  else if op = 0b000#3 then .nop
  else if op = 0b001#3 then .poll
  else if op = 0b010#3 then .rise
  else if op = 0b011#3 then .fall
  else .pstep

/-- Why a word is no legal command: the codes 1, 2 and 3 of 60_exceptions.md R201, and a number that is
no 11-bit word at all. -/
inductive DecodeReject where
  | reservedOp
  | nonzeroData
  | pstepInAtomic
  | notElevenBits
deriving DecidableEq, Repr

/-- `DecodeCmd` of R78 in full: a legal command, or the refusal. The one thing it reads beside the word
is the parameter `POLL_MODE` (R194). -/
def decodeCmd (mode : PollMode) (w : CmdWord) : Except DecodeReject Instr :=
  match decode w with
  | .reservedOp _ => .error .reservedOp
  | .nonzeroNop _ => .error .nonzeroData
  | .nonzeroPoll _ => .error .nonzeroData
  | .nonzeroRise _ => .error .nonzeroData
  | .nonzeroFall _ => .error .nonzeroData
  | .nonzeroPstep _ => .error .nonzeroData
  | .pstep => match mode with
    | .atomic => .error .pstepInAtomic
    | .interleaved => .ok .pstep
  | .nop => .ok .nop
  | .poll => .ok .poll
  | .rise => .ok .rise
  | .fall => .ok .fall
  | .cfgIgn c => .ok (.cfgIgn c)
  | .cfgLoadLow c => .ok (.cfgLoadLow c)
  | .cfgLoadHigh c => .ok (.cfgLoadHigh c)
  | .cfgHighLow c => .ok (.cfgHighLow c)
  | .cfgHighTop c => .ok (.cfgHighTop c)

/-- Decoding of any number: one of 2048 or more is no command word (R81). -/
def decodeNat (w : Nat) : Except DecodeReject Instr :=
  if w < 2 ^ 11 then .ok (decode (BitVec.ofNat 11 w)) else .error .notElevenBits

/-- The host's reading of a table word: the low `nbits` bits of `w`, bit 0 least significant (log 15, DESIGN CHOICE, safe). -/
def decodeTableWord (nbits w : Nat) : Option Instr :=
  match decodeNat (w % 2 ^ nbits) with
  | .ok i => some i
  | .error _ => none

/-- The word of an instruction, from the "encoding" column of the opcode table. -/
def encode : Instr → CmdWord
  | .nop => 0b00000000000#11
  | .poll => 0b00100000000#11
  | .rise => 0b01000000000#11
  | .fall => 0b01100000000#11
  | .cfgIgn c => 0b100000#6 ++ c
  | .cfgLoadLow c => 0b100001#6 ++ c
  | .cfgLoadHigh c => 0b100010#6 ++ c
  | .cfgHighLow c => 0b100011#6 ++ c
  | .cfgHighTop c => 0b1001#4 ++ c
  | .pstep => 0b10100000000#11
  | .reservedOp x => 0b11#2 ++ x
  | .nonzeroNop d => 0b000#3 ++ d
  | .nonzeroPoll d => 0b001#3 ++ d
  | .nonzeroRise d => 0b010#3 ++ d
  | .nonzeroFall d => 0b011#3 ++ d
  | .nonzeroPstep d => 0b101#3 ++ d

/-- One row of the opcode table: a word matches when `word AND mask = pattern`. -/
structure TableRow where
  pattern : CmdWord
  mask    : CmdWord
  build   : CmdWord → Instr

/-- The opcode table, row by row in its order. -/
def opcodeTable : List TableRow :=
  [ ⟨0x000#11, 0x7FF#11, fun _ => .nop⟩,
    ⟨0x100#11, 0x7FF#11, fun _ => .poll⟩,
    ⟨0x200#11, 0x7FF#11, fun _ => .rise⟩,
    ⟨0x300#11, 0x7FF#11, fun _ => .fall⟩,
    ⟨0x400#11, 0x7E0#11, fun w => .cfgIgn (w.extractLsb' 0 5)⟩,
    ⟨0x420#11, 0x7E0#11, fun w => .cfgLoadLow (w.extractLsb' 0 5)⟩,
    ⟨0x440#11, 0x7E0#11, fun w => .cfgLoadHigh (w.extractLsb' 0 5)⟩,
    ⟨0x460#11, 0x7E0#11, fun w => .cfgHighLow (w.extractLsb' 0 5)⟩,
    ⟨0x480#11, 0x780#11, fun w => .cfgHighTop (w.extractLsb' 0 7)⟩,
    ⟨0x500#11, 0x7FF#11, fun _ => .pstep⟩,
    ⟨0x600#11, 0x600#11, fun w => .reservedOp (w.extractLsb' 0 9)⟩,
    ⟨0x000#11, 0x700#11, fun w => .nonzeroNop (dataField w)⟩,
    ⟨0x100#11, 0x700#11, fun w => .nonzeroPoll (dataField w)⟩,
    ⟨0x200#11, 0x700#11, fun w => .nonzeroRise (dataField w)⟩,
    ⟨0x300#11, 0x700#11, fun w => .nonzeroFall (dataField w)⟩,
    ⟨0x500#11, 0x700#11, fun w => .nonzeroPstep (dataField w)⟩ ]

/-- The table's own rule: "the first row whose (word & mask) == match decides". -/
def decodeByTable (w : CmdWord) : Option Instr :=
  (opcodeTable.find? fun r => w &&& r.mask == r.pattern).map fun r => r.build w

/-- The configuration byte a CFG command carries in `DATA` (R73), and nothing for other commands. -/
def configByteOf : Instr → Option ConfigByte
  | .cfgIgn c => some (0b000#3 ++ c)
  | .cfgLoadLow c => some (0b001#3 ++ c)
  | .cfgLoadHigh c => some (0b010#3 ++ c)
  | .cfgHighLow c => some (0b011#3 ++ c)
  | .cfgHighTop c => some (0b1#1 ++ c)
  | .nop => none
  | .poll => none
  | .rise => none
  | .fall => none
  | .pstep => none
  | .reservedOp _ => none
  | .nonzeroNop _ => none
  | .nonzeroPoll _ => none
  | .nonzeroRise _ => none
  | .nonzeroFall _ => none
  | .nonzeroPstep _ => none

/-- The word `0x400 | c` of the command `CFG c` (R180). -/
def configWord (c : ConfigByte) : CmdWord := 0b100#3 ++ c

/-- The CFG byte a pseudo-instruction expands to (R80). -/
def expandPseudo : Pseudo → ConfigByte
  | .setf f => f.setWidth 8 + 0x20#8
  | .disable => 0x20#8
  | .direct => 0x40#8
  | .lin k => 0x40#8 + k.setWidth 8
  | .expo e r => 0x50#8 + 4#8 * e.setWidth 8 + r.setWidth 8

end Sys2Proof
end

