-- ==== Sys2Proof/Machine/Dispatcher.lean ====
section
/-! DEFINITION. The dispatcher commands POLL and PSTEP and the seven micro-steps
(44_dispatcher.md R160 to R170). -/

namespace Sys2Proof.Machine

/-- IDLE: read the mode (R163). -/
def stepIdle (s : State) : Result :=
  if s.en && s.hd then .next { s with dph := .snap } else .next { s with dph := .idle }

/-- SNAP: read the cursor pair (R164). -/
def stepSnap (s : State) : Result :=
  if s.rd = s.wr then .next { s with dph := .idle } else .next { s with dph := .time }

/-- TIME: sample the clock (R165). -/
def stepTime (s : State) : Result := .next { s with tL := some (nowOf s), dph := .test }

/-- TEST: the loop test of `advance` against the current cursors (R166). -/
def stepTest (s : State) : Result :=
  if s.rd = s.wr then .next { s with rL := some s.rd, dph := .par }
  else match s.tL with
    | none => .fault (.unwrittenLocal .tL)
    | some t => match slotRead s.rd s with
      | .error f => .fault f
      | .ok ts =>
        .next { s with rL := some s.rd, dph := if due s.par.w ts t then .commit else .par }

/-- COMMIT: pop the head, writing `RD` from the local copy (R167). -/
def stepCommit (s : State) : Result :=
  match s.rL with
  | none => .fault (.unwrittenLocal .rL)
  | some r => .next { s with rd := inc s.par.n r, dph := .test }

/-- PAR: read the resulting reader parity (R168). -/
def stepPar (s : State) : Result := .next { s with pL := some (parity s.rd), dph := .drive }

/-- DRIVE: drive the output from the parity read by PAR (R169, R170). -/
def stepDrive (s : State) : Result :=
  match s.pL with
  | none => .fault (.unwrittenLocal .pL)
  | some b => .next { driveOut b s with dph := .idle }

/-- The micro-step `DPH` selects (R162). -/
def microStep (s : State) : Result :=
  match s.dph with
  | .idle => stepIdle s
  | .snap => stepSnap s
  | .time => stepTime s
  | .test => stepTest s
  | .commit => stepCommit s
  | .par => stepPar s
  | .drive => stepDrive s

/-- Micro-steps until `DPH` is IDLE after at least one (R161). -/
def iterate : Nat → State → Result
  | 0, _ => .fault .dispatcherDiverges
  | fuel + 1, s =>
    andThen (microStep s) fun s1 => if s1.dph = .idle then .next s1 else iterate fuel s1

/-- POLL when `POLL_MODE` is INTERLEAVED (R161). An iteration ends within `2N + 4` micro-steps (R172),
which is the bound on the loop (log 9, DESIGN CHOICE, safe). -/
def pollInterleaved (s : State) : Result := iterate (2 * s.par.n + 4) s

/-- POLL when `POLL_MODE` is ATOMIC (R160). -/
def pollAtomic (s : State) : Result :=
  if s.en && s.hd then
    if s.rd = s.wr then .next s
    else andThen (advance (nowOf s) s) fun s1 => .next (driveOut (parity s1.rd) s1)
  else .next s

/-- POLL (R160, R161). -/
def execPoll (s : State) : Result :=
  match s.par.pollMode with
  | .atomic => pollAtomic s
  | .interleaved => pollInterleaved s

/-- PSTEP (R162); refused with code 3 in ATOMIC mode, before any state is read (R193, R194). -/
def execPstep (s : State) : Result :=
  match s.par.pollMode with
  | .atomic => .refused (.pstepInAtomic (encode .pstep))
  | .interleaved => microStep s

end Sys2Proof.Machine
end

