-- ==== Sys2Proof/Machine/EdgeCapture.lean ====
section
/-! DEFINITION. The edge capture commands (43_edge_capture.md). -/

namespace Sys2Proof.Machine

/-- RISE (R140): role ON, asserts in direct mode. -/
def execRise (s : State) : Result := edgeHandler .on true s

/-- FALL (R141): role OFF, deasserts in direct mode. -/
def execFall (s : State) : Result := edgeHandler .off false s

end Sys2Proof.Machine
end

