-- ==== Sys2Proof/Machine/Idle.lean ====
section
/-! DEFINITION. NOP (46_idle_and_reserved.md R190). -/

namespace Sys2Proof.Machine

/-- NOP: no register, slot or output changes (R190). -/
def execNop (s : State) : Result := .next s

end Sys2Proof.Machine
end

