-- ==== Sys2Proof/Machine/Reserved.lean ====
section
/-! DEFINITION. The reserved words (46_idle_and_reserved.md R191, R192): each is refused by its code, and
the refusal records the word (60_exceptions.md R201). -/

namespace Sys2Proof.Machine

/-- RESERVED_OP: code 1, whatever the data (R191). -/
def execReservedOp (x : BitVec 9) (_ : State) : Result := .refused (.reservedOp (encode (.reservedOp x)))

/-- NONZERO_DATA on NOP: code 2 (R192). -/
def execNonzeroNop (d : BitVec 8) (_ : State) : Result := .refused (.nonzeroData (encode (.nonzeroNop d)))

/-- NONZERO_DATA on POLL: code 2 (R192). -/
def execNonzeroPoll (d : BitVec 8) (_ : State) : Result := .refused (.nonzeroData (encode (.nonzeroPoll d)))

/-- NONZERO_DATA on RISE: code 2 (R192). -/
def execNonzeroRise (d : BitVec 8) (_ : State) : Result := .refused (.nonzeroData (encode (.nonzeroRise d)))

/-- NONZERO_DATA on FALL: code 2 (R192). -/
def execNonzeroFall (d : BitVec 8) (_ : State) : Result := .refused (.nonzeroData (encode (.nonzeroFall d)))

/-- NONZERO_DATA on PSTEP: code 2, in both modes (R192, R194). -/
def execNonzeroPstep (d : BitVec 8) (_ : State) : Result := .refused (.nonzeroData (encode (.nonzeroPstep d)))

end Sys2Proof.Machine
end

