-- ==== Sys2Proof/Machine/Dispatch.lean ====
section
/-! DEFINITION. The dispatch of a decoded command to its meaning, one arm per constructor. -/

namespace Sys2Proof.Machine

def exec (i : Instr) (s : State) : Host.Outcome State Fault Refusal :=
  match i with
  | .nop => Sys2Proof.Machine.execNop s
  | .poll => Sys2Proof.Machine.execPoll s
  | .rise => Sys2Proof.Machine.execRise s
  | .fall => Sys2Proof.Machine.execFall s
  | .cfgIgn c => Sys2Proof.Machine.execCfgIgn c s
  | .cfgLoadLow c => Sys2Proof.Machine.execCfgLoadLow c s
  | .cfgLoadHigh c => Sys2Proof.Machine.execCfgLoadHigh c s
  | .cfgHighLow c => Sys2Proof.Machine.execCfgHighLow c s
  | .cfgHighTop c => Sys2Proof.Machine.execCfgHighTop c s
  | .pstep => Sys2Proof.Machine.execPstep s
  | .reservedOp x => Sys2Proof.Machine.execReservedOp x s
  | .nonzeroNop d => Sys2Proof.Machine.execNonzeroNop d s
  | .nonzeroPoll d => Sys2Proof.Machine.execNonzeroPoll d s
  | .nonzeroRise d => Sys2Proof.Machine.execNonzeroRise d s
  | .nonzeroFall d => Sys2Proof.Machine.execNonzeroFall d s
  | .nonzeroPstep d => Sys2Proof.Machine.execNonzeroPstep d s

end Sys2Proof.Machine
end

