-- ==== Sys2Proof/Machine/Environment.lean ====
section
/-! DEFINITION. One step of a run by any of the three agents (60_exceptions.md R208): the interrupt
engine's service steps (R204), the environment's inputs (R213 to R217) and the commands presented at a
clock value (30_encoding.md R70, R83). -/

namespace Sys2Proof.Machine

/-- `SERVICE(s)` (R204): clear the source and run its handler in one indivisible step. A service the
engine does not have is refused (log 10, DESIGN CHOICE, safe). The handler always runs, in the mode at
service (R142): an edge serviced in disabled mode leaves nothing behind (R211, R232), and one that still
waits is handled by the configuration then in force (log 20, DEDUCED, unsafe). -/
def service (src : Source) (s : State) : Result :=
  if mayService s src then
    match src with
    | .rise => execRise (acceptSource .rise s)
    | .fall => execFall (acceptSource .fall s)
    | .rx => match s.serq with
      | [] => .refused (.noServiceStep .rx)
      | c :: _ => .next (serveByte c (acceptSource .rx s))
  else .refused (.noServiceStep src)

/-- The effect of an event at the clock value the state already shows (R208). -/
def runEvent (e : Event) (s : State) : Result :=
  match e with
  | .command w => exec (decode w) s
  | .edgeRise => .next (edgeArrives .on s)
  | .edgeFall => .next (edgeArrives .off s)
  | .byteArrives c => .next (byteArrives c s)
  | .service src => service src s
  | .powerOn => .next (powerOnReset s)

/-- One step of a run: a parameter set that is not well formed is refused before anything else (R5,
R233); otherwise the clock advances (R215) and the event happens. -/
def takeStimulus (st : Stimulus) (s : State) : Result :=
  if paramsOk s.par then runEvent st.event (advanceClock st.elapsed s)
  else .refused (.badParameters s.par)

/-- What happens next (log 3, DESIGN CHOICE, safe): the first planned step, or a free draw when nothing is planned. -/
def nextStimulus (s : State) : Stimulus × State :=
  match s.schedule with
  | [] => (Config.envDraw s.draws, { s with draws := s.draws + 1 })
  | st :: rest => (st, { s with schedule := rest })

/-- Plan the command word with the bits `w` as the very next step, at the present clock value. A number
that is no 11-bit word cannot be presented, and plans nothing (log 15, DESIGN CHOICE, safe). -/
def planWord (w : Nat) (s : State) : State :=
  if w < 2 ^ 11 then
    { s with schedule := ⟨0, .command (BitVec.ofNat 11 w)⟩ :: s.schedule }
  else s

end Sys2Proof.Machine
end

