-- ==== Sys2Proof/Machine/Step.lean ====
section
/-! DEFINITION. The step function and the host's placement of a command word. -/

namespace Sys2Proof.Machine

/-- One step of the machine: the next planned or drawn stimulus happens. -/
def step (s : State) : Host.Outcome State Fault Refusal :=
  takeStimulus (nextStimulus s).1 (nextStimulus s).2

/-- `s` with the instruction whose bits are `w` presented as the very next command (log 3, log 15, DESIGN CHOICE, safe). -/
def State.withFetchWord (s : State) (nbits w : Nat) : State := planWord (w % 2 ^ nbits) s

end Sys2Proof.Machine
end

