-- ==== Sys2Proof/Safety.lean ====
section
/-! DEFINITION. What counts as a safe run, in the terms the statements use: the machine's invariant, the
views of the queue that the rules of 10_state.md and 42_scheduler.md speak of, what an observer sees, and
the premises of liveness claims. -/

namespace Sys2Proof.Safety

open Sys2Proof.Machine

/-- The visible entries, from the head on: the slots `RD, RD+1, …` up to but excluding `WR` (R34, R39).
An unwritten slot shows as `none`. -/
def visible (s : State) : List (Option Nat) :=
  (List.range (occupancy s)).map fun k => Memory.read s.slots ((s.rd + k) % s.par.n)

/-- Every slot of the ring range `[RD, WR)` has been written (R38(b)). -/
abbrev RingWritten (s : State) : Prop :=
  ∀ k, k < occupancy s → (Memory.read s.slots ((s.rd + k) % s.par.n)).isSome = true

/-- Every slot has been written. -/
abbrev AllWritten (s : State) : Prop :=
  ∀ i, i < s.par.n → (Memory.read s.slots i).isSome = true

/-- No CFG has come between a TEST that chose COMMIT and that COMMIT (R38(c)): the local copy is still
the reader, and if the queue reads empty it is because the writer has lapped it. -/
abbrev PopCoherent (s : State) : Prop :=
  s.dph = .commit → s.rL = some s.rd ∧ (s.rd = s.wr → AllWritten s)

/-- The popping half of FIFO order (R130): between a TEST that chose COMMIT and that COMMIT the local copy
is still the reader and the entry it read is still visible. A CFG or an overflow in between breaks it. -/
abbrev FifoCoherent (s : State) : Prop :=
  s.dph = .commit → s.rL = some s.rd ∧ s.rd ≠ s.wr

/-- What an edge of a role writes into the queue (R120, R122, R140 to R142): in delayed mode `now +_W LAT`,
once when the writer has the parity of the role, else twice. -/
def edgeEntries (role : Role) (s : State) : List Nat :=
  let t := (nowOf s + s.lat) % 2 ^ s.par.w
  if s.en && s.hd then if s.wr % 2 = roleNumber role then [t] else [t, t] else []

/-- The timestamps an event writes by `PUSH`, in order: only the edge handlers push (R121). -/
def entriesPushed (e : Event) (s : State) : List Nat :=
  match e with
  | .command w =>
    if decode w = .rise then edgeEntries .on s else if decode w = .fall then edgeEntries .off s else []
  | .service .rise => edgeEntries .on s
  | .service .fall => edgeEntries .off s
  | .service .rx => []
  | .edgeRise => []
  | .edgeFall => []
  | .byteArrives _ => []
  | .powerOn => []

/-- Events one after the other at one clock value; a stop ends them. -/
def runEvents : List Event → State → Result
  | [], s => .next s
  | e :: es, s => andThen (runEvent e s) (runEvents es)

/-- The locals a phase will read have been written in this iteration (R30). -/
def localsReady (s : State) : Bool :=
  match s.dph with
  | .idle => true
  | .snap => true
  | .time => true
  | .test => s.tL.isSome
  | .commit => s.tL.isSome && s.rL.isSome
  | .par => true
  | .drive => s.pL.isSome

/-- A value held in an optional local is below a bound. -/
def below (bound : Nat) : Option Nat → Bool
  | none => true
  | some v => decide (v < bound)

/-- What holds of every state of a run (R21 to R30, R38(a), R40, R233) and is kept by every step. -/
structure Inv (s : State) : Prop where
  /-- The parameter set is well formed (R5). -/
  params : paramsOk s.par = true
  /-- `0 ≤ RD < N` (R38(a)). -/
  reader : s.rd < s.par.n
  /-- `0 ≤ WR < N` (R38(a)). -/
  writer : s.wr < s.par.n
  /-- The slot list has its canonical form. -/
  slotsWf : Memory.wf s.slots = true
  /-- Every written slot exists and holds a `W`-bit value. -/
  slotsBounded : Memory.bounded s.par.n s.par.w s.slots = true
  /-- `EN`, `HD` and `LAT` hold one result of `DECODE` (R24, R40). -/
  config : ∃ f, decodeFlag s.par f = ⟨s.en, s.hd, s.lat⟩
  /-- `OVF_COUNT` fits its width (R28). -/
  overflow : s.ovfCount < 2 ^ s.par.ovfWidth
  /-- `OVF_COUNT` is never counted when it does not exist (R28). -/
  noCounter : s.par.hasOvfCounter = false → s.ovfCount = 0
  /-- When `POLL_MODE` is ATOMIC, `DPH` is IDLE (R29). -/
  atomicIdle : s.par.pollMode = .atomic → s.dph = .idle
  /-- The locals a phase reads are written (R30). -/
  locals : localsReady s = true
  /-- `r_l` is a cursor (R30). -/
  readerLocal : below s.par.n s.rL = true
  /-- `t_l` is a `W`-bit time (R30). -/
  timeLocal : below (2 ^ s.par.w) s.tL = true

/-- Whether an event loads a configuration in a state: a CFG command, or the service of a waiting byte,
whose byte is not ignored (R180, R181). -/
def loadsConfig (e : Event) (s : State) : Bool :=
  match e with
  | .command w => match configByteOf (decode w) with
    | none => false
    | some c => (flagLoaded s.par c).isSome
  | .service .rx => match s.serq with
    | [] => false
    | c :: _ => (flagLoaded s.par c).isSome
  | .service .rise => false
  | .service .fall => false
  | .edgeRise => false
  | .edgeFall => false
  | .byteArrives _ => false
  | .powerOn => false

/-- What an observer sees of one step: the time and the new level, when `OUT` changed (R216). -/
def outputChange (s s' : State) : Option (Nat × Bool) :=
  if s.out = s'.out then none else some (s'.clock, s'.out)

/-- The behaviour of a run: the output changes along a list of states (R216). -/
def outputTrace : List State → List (Nat × Bool)
  | s :: s' :: rest => match outputChange s s' with
    | none => outputTrace (s' :: rest)
    | some x => x :: outputTrace (s' :: rest)
  | [_] => []
  | [] => []

/-- The states of the runs R234 admits: power-on reset with a well-formed parameter set at any clock
value, and from there any step of any agent that has a next state. -/
inductive Reachable (p : Params) : State → Prop where
  | launch (t : Nat) : paramsOk p = true → Reachable p (State.powerOn p t)
  | step (st : Stimulus) (s s' : State) :
      Reachable p s → takeStimulus st s = .next s' → Reachable p s'

/-- An infinite run from the launch premise (R234). -/
def IsRun (p : Params) (states : Nat → State) (stimuli : Nat → Stimulus) : Prop :=
  paramsOk p = true ∧ (∃ t, states 0 = State.powerOn p t) ∧
    ∀ k, takeStimulus (stimuli k) (states k) = .next (states (k + 1))

/-- A step of the dispatcher: POLL or PSTEP (R208(a)). -/
def isDispatcherStep : Event → Bool
  | .command w => decide (decode w = .poll) || decide (decode w = .pstep)
  | .edgeRise => false
  | .edgeFall => false
  | .byteArrives _ => false
  | .service _ => false
  | .powerOn => false

/-- The fairness premises liveness claims may assume, and nothing more (R222): the dispatcher takes
infinitely many steps, and a source that stays pending is serviced. The clock need not advance. -/
def FairRun (p : Params) (states : Nat → State) (stimuli : Nat → Stimulus) : Prop :=
  IsRun p states stimuli ∧
    (∀ k, ∃ j, k ≤ j ∧ isDispatcherStep (stimuli j).event = true) ∧
    ∀ k src, ∃ j, k ≤ j ∧
      ((stimuli j).event = .service src ∨ isPending (states j) src = false)

end Sys2Proof.Safety
end

