-- ==== Sys2Proof/Certificates/Slice0/Obligations.lean ====
section
/-! DEFINITION. The statements for the provers. Each docstring names the rules of spec/ it formalises.
Free names: `n`, `w` are the parameters of the state at hand; every statement is over every parameter set
its hypotheses admit, never over the capacity of `State.reset` (log 2), but for `ResetIsPowerOn`. -/

open Sys2Proof Sys2Proof.Machine Sys2Proof.Safety

/-! ### Decoding -/

/-- No bit of an encoding is dropped: decoding the word of a well-formed instruction gives it back
(30_encoding.md R70 to R73). -/
def Obligations.DecodeOfEncode : Prop :=
  ∀ i : Instr, i.wf = true → decode (encode i) = i

/-- R78: decoding is total. Every word decodes to the instruction the opcode table gives it, read in its
order; that instruction is well formed, and the word is its encoding. -/
def Obligations.EveryWordDecodesByTheTable : Prop :=
  ∀ w : CmdWord, decodeByTable w = some (decode w) ∧ (decode w).wf = true ∧ encode (decode w) = w

/-- Words written out from the spec's encodings of each row (30_encoding.md R71, R76). -/
def Obligations.WordsOfEachRowDecode : Prop :=
  decode 0b00000000000#11 = .nop ∧ decode 0b00100000000#11 = .poll ∧
  decode 0b01000000000#11 = .rise ∧ decode 0b01100000000#11 = .fall ∧
  decode 0b10000011111#11 = .cfgIgn 0b11111#5 ∧ decode 0b10000100001#11 = .cfgLoadLow 0b00001#5 ∧
  decode 0b10001000101#11 = .cfgLoadHigh 0b00101#5 ∧ decode 0b10001100000#11 = .cfgHighLow 0b00000#5 ∧
  decode 0b10011111111#11 = .cfgHighTop 0b1111111#7 ∧ decode 0b10100000000#11 = .pstep ∧
  decode 0b11011111111#11 = .reservedOp 0b011111111#9 ∧
  decode 0b00000000001#11 = .nonzeroNop 0b00000001#8 ∧
  decode 0b00111111111#11 = .nonzeroPoll 0b11111111#8 ∧
  decode 0b01010000000#11 = .nonzeroRise 0b10000000#8 ∧
  decode 0b01100000010#11 = .nonzeroFall 0b00000010#8 ∧
  decode 0b10100000001#11 = .nonzeroPstep 0b00000001#8

/-- The counts of R196 over the 2048 words, in both modes. -/
def Obligations.CountsOfTheWords : Prop :=
  let words := List.range 2048
  let count := fun (mode : PollMode) (q : Except DecodeReject Instr → Bool) =>
    words.countP fun k => q (decodeCmd mode (BitVec.ofNat 11 k))
  let accepts := fun (p : Instr → Bool) (r : Except DecodeReject Instr) => match r with
    | .ok i => p i
    | .error _ => false
  let rejects := fun (e : DecodeReject) (r : Except DecodeReject Instr) => match r with
    | .ok _ => false
    | .error e' => e' == e
  count .interleaved (accepts (· == .nop)) = 1 ∧
  count .interleaved (accepts (· == .poll)) = 1 ∧
  count .interleaved (accepts (· == .rise)) = 1 ∧
  count .interleaved (accepts (· == .fall)) = 1 ∧
  count .interleaved (accepts fun i => (configByteOf i).isSome) = 256 ∧
  count .interleaved (accepts (· == .pstep)) = 1 ∧
  count .interleaved (rejects .reservedOp) = 512 ∧
  count .interleaved (rejects .nonzeroData) = 1275 ∧
  count .interleaved (rejects .pstepInAtomic) = 0 ∧
  count .atomic (accepts (· == .pstep)) = 0 ∧
  count .atomic (rejects .pstepInAtomic) = 1

/-! ### Reserved words -/

/-- R191: a word with `OP = 110` or `111` is refused with code 1, whatever its data, and the refusal
records the word; there are 512 of them. Both as a word and as the instruction it decodes to. -/
def Obligations.ReservedOperationsRefused : Prop :=
  (∀ w : CmdWord, (opField w = 0b110#3 ∨ opField w = 0b111#3) →
    ∀ s, exec (decode w) s = .refused (.reservedOp w)) ∧
  (∀ (x : BitVec 9) (s : State), exec (.reservedOp x) s = .refused (.reservedOp (0b11#2 ++ x))) ∧
  (∀ w, refusalCode (.reservedOp w) = some 1) ∧
  (List.range 2048).countP (fun k => (BitVec.ofNat 11 k).extractLsb' 9 2 == 0b11#2) = 512

/-- R192: a word with an operation other than CFG and nonzero data is refused with code 2; there are
5 × 255 of them. Both as a word and as the instruction of each of the five rows. -/
def Obligations.NonzeroDataRefused : Prop :=
  (∀ w : CmdWord, opField w ∈ [0b000#3, 0b001#3, 0b010#3, 0b011#3, 0b101#3] → dataField w ≠ 0#8 →
    ∀ s, exec (decode w) s = .refused (.nonzeroData w)) ∧
  (∀ (d : BitVec 8) (s : State),
    exec (.nonzeroNop d) s = .refused (.nonzeroData (0b000#3 ++ d)) ∧
    exec (.nonzeroPoll d) s = .refused (.nonzeroData (0b001#3 ++ d)) ∧
    exec (.nonzeroRise d) s = .refused (.nonzeroData (0b010#3 ++ d)) ∧
    exec (.nonzeroFall d) s = .refused (.nonzeroData (0b011#3 ++ d)) ∧
    exec (.nonzeroPstep d) s = .refused (.nonzeroData (0b101#3 ++ d))) ∧
  (∀ w, refusalCode (.nonzeroData w) = some 2) ∧
  (List.range 2048).countP (fun k => opField (BitVec.ofNat 11 k) != 0b100#3 &&
    (BitVec.ofNat 11 k).extractLsb' 9 2 != 0b11#2 && dataField (BitVec.ofNat 11 k) != 0#8) = 1275

/-- R193: in ATOMIC mode the word `0x500` is refused with code 3, in every state. -/
def Obligations.PstepRefusedInAtomicMode : Prop :=
  (∀ s : State, s.par.pollMode = .atomic → exec (decode 0x500#11) s = .refused (.pstepInAtomic 0x500#11)) ∧
  ∀ w, refusalCode (.pstepInAtomic w) = some 3

/-! ### The configuration decoder and the byte -/

/-- R108: the properties of `DECODE` for every flag and parameter set. Clause (e) needs both factors to be
at least 1, and fails for the six flags when `EXP0_EXPONENT = 0`. -/
def Obligations.DecodeProperties : Prop :=
  ∀ (p : Params) (f : Flag),
    ((decodeFlag p f).enabled = decide (32 ≤ f.toNat)) ∧
    ((decodeFlag p f).hasDelay = false ↔ f.toNat % 16 = 0) ∧
    (f.toNat / 16 % 2 = 0 → (decodeFlag p f).latencyMs = p.delayFactor * (f.toNat % 16)) ∧
    (f.toNat / 16 % 2 = 1 → f.toNat % 16 ≠ 0 →
      (decodeFlag p f).latencyMs =
        (if f.toNat / 4 % 4 = 0 then p.exp0Exponent else 10 ^ (f.toNat / 4 % 4)) * 2 ^ (f.toNat % 4)) ∧
    (1 ≤ p.delayFactor → 1 ≤ p.exp0Exponent →
      ((decodeFlag p f).latencyMs = 0 ↔ (decodeFlag p f).hasDelay = false)) ∧
    (p.exp0Exponent = 0 → (f.toNat % 32 = 17 ∨ f.toNat % 32 = 18 ∨ f.toNat % 32 = 19) →
      (decodeFlag p f).hasDelay = true ∧ (decodeFlag p f).latencyMs = 0)

/-- With well-formed parameters every latency lies below half the timestamp range (R5, R100). -/
def Obligations.LatencyBelowHalfRange : Prop :=
  ∀ (p : Params) (f : Flag), paramsOk p = true → (decodeFlag p f).latencyMs < 2 ^ (p.w - 1)

/-- The latency column of the 64-row table under the default parameters (R107). -/
def Obligations.LatencyTable : Prop :=
  let half := [0, 20, 40, 60, 80, 100, 120, 140, 160, 180, 200, 220, 240, 260, 280, 300,
    0, 2, 4, 8, 10, 20, 40, 80, 100, 200, 400, 800, 1000, 2000, 4000, 8000]
  ∀ n, (List.range 64).map (fun k => (decodeFlag (Params.standard n) (BitVec.ofNat 6 k)).latencyMs) =
    half ++ half

/-- R74: for every byte from `0x20` on, `f = (c − 0x20) mod 64`, with `f[5]` the inverse of `c[5]` and
`f[4:0] = c[4:0]`; up to `0x5F` that is `c − 0x20`, and `f[5] = c[6]`. -/
def Obligations.FlagOfByte : Prop :=
  ∀ c : ConfigByte, 0x20 ≤ c.toNat →
    (flagOf c).getLsbD 5 = !c.getLsbD 5 ∧ (flagOf c).extractLsb' 0 5 = c.extractLsb' 0 5 ∧
    (flagOf c).toNat = (c.toNat - 0x20) % 64 ∧
    (c.toNat ≤ 0x5F → (flagOf c).toNat = c.toNat - 0x20 ∧ (flagOf c).getLsbD 5 = c.getLsbD 6)

/-! ### Arithmetic -/

/-- R56: `due` is true exactly when `t` is at or after `ts`, counting forward less than half the range;
and its four corner cases. -/
def Obligations.DueIsForwardHalfRange : Prop :=
  ∀ w ts t : Nat, 1 ≤ w → ts < 2 ^ w → t < 2 ^ w →
    (due w ts t = true ↔ subW w t ts < 2 ^ (w - 1)) ∧
    (due w ts t = true ↔ ∃ d, d < 2 ^ (w - 1) ∧ t = addW w ts d) ∧
    due w ts ts = true ∧
    due w ts (subW w ts 1) = false ∧
    due w ts (addW w ts (2 ^ (w - 1) - 1)) = true ∧
    due w ts (addW w ts (2 ^ (w - 1))) = false

/-- R57: the cursor increment wraps at `N` and stays in range. -/
def Obligations.CursorIncrementWraps : Prop :=
  ∀ n i : Nat, i < n →
    inc n i = (i + 1) % n ∧ inc n i = (if i = n - 1 then 0 else i + 1) ∧ inc n i < n

/-- R58: the target is `(now + LAT) mod 2^W`, and it becomes due exactly when `LAT` ms have passed since
`now`, as long as less than `LAT + 2^(W−1)` ms have. -/
def Obligations.TargetDueAfterLatency : Prop :=
  ∀ w now lat t : Nat, 1 ≤ w → now < 2 ^ w → t < 2 ^ w → lat < 2 ^ (w - 1) →
    target w now lat = (now + lat) % 2 ^ w ∧
    (subW w t now < lat + 2 ^ (w - 1) →
      (due w (target w now lat) t = true ↔ lat ≤ subW w t now))

/-! ### The slot array -/

/-- R52 and R53: a slot write in range answers a state that differs in that one slot; reading it gives the
value written; every other slot reads as before, and an unwritten one is fault 4. -/
def Obligations.SlotWriteThenRead : Prop :=
  ∀ (s : State) (i v : Nat), i < s.par.n →
    (∃ s', slotWrite i v s = .next s' ∧
      s' = { s with slots := s'.slots } ∧
      slotRead i s' = .ok v ∧
      ∀ j, j ≠ i → Memory.read s'.slots j = Memory.read s.slots j) ∧
    (Memory.read s.slots i = none → slotRead i s = .error (.unwrittenSlotRead i)) ∧
    (∀ u, Memory.read s.slots i = some u → slotRead i s = .ok u) ∧
    faultCode (.unwrittenSlotRead i) = some 4

/-! ### The scheduler -/

/-- R128: an enqueue always lands; it leaves the writer at the parity that expects the opposite role, with
the time in the last slot written, which has the parity of the role. -/
def Obligations.EnqueueAlignsParity : Prop :=
  ∀ (s : State) (role : Role) (t : Nat), paramsOk s.par = true → s.wr < s.par.n →
    ∃ s', enqueue role t s = .next s' ∧ s'.wr < s.par.n ∧
      s'.wr % 2 = (roleNumber role + 1) % 2 ∧
      Memory.read s'.slots ((s'.wr + s.par.n - 1) % s.par.n) = some t ∧
      slotRole ((s'.wr + s.par.n - 1) % s.par.n) = role

/-- R127 (a) and (b): a push that finds room adds one visible entry at the end and loses nothing; one that
finds `N − 1` visible entries leaves the writer on the reader, so that the queue reads empty. Neither
moves the reader. -/
def Obligations.PushAppendsOrEmpties : Prop :=
  ∀ (s : State) (t : Nat), paramsOk s.par = true → s.rd < s.par.n → s.wr < s.par.n →
    ∃ s', push t s = .next s' ∧ s'.rd = s.rd ∧ s'.wr = inc s.par.n s.wr ∧
      (occupancy s + 2 ≤ s.par.n → visible s' = visible s ++ [some t]) ∧
      (occupancy s = s.par.n - 1 → s'.wr = s'.rd ∧ visible s' = [])

/-- R127 (c): after pushes of `ts` with no pop, starting from occupancy `k0` with `k0 + m ≥ N`, the visible
entries are exactly the newest `(k0 + m) mod N` of the pushed ones. -/
def Obligations.OverflowKeepsNewest : Prop :=
  ∀ (ts : List Nat) (s : State), paramsOk s.par = true → s.rd < s.par.n → s.wr < s.par.n →
    s.par.n ≤ occupancy s + ts.length →
    ∃ s', ts.foldl (fun r t => andThen r (push t)) (.next s) = .next s' ∧ s'.rd = s.rd ∧
      visible s' = (ts.drop (ts.length - (occupancy s + ts.length) % s.par.n)).map some

/-- R123: after a push `OVF_COUNT` is one more, saturating, when the counter exists and the writer has
caught up with the reader, which is when the push found `N − 1` entries; otherwise it is unchanged. One
enqueue counts at most one overflow, and counts one exactly when its first push found `N − 1` entries, or
found `N − 2` and a compensation write followed. -/
def Obligations.OverflowCountedOnce : Prop :=
  ∀ (s : State) (role : Role) (t : Nat), paramsOk s.par = true → s.rd < s.par.n → s.wr < s.par.n →
    (∃ s1, push t s = .next s1 ∧
      (s1.wr = s1.rd ↔ occupancy s = s.par.n - 1) ∧
      s1.ovfCount = if s.par.hasOvfCounter = true ∧ s1.wr = s1.rd
        then min (s.ovfCount + 1) (2 ^ s.par.ovfWidth - 1) else s.ovfCount) ∧
    (∃ s2, enqueue role t s = .next s2 ∧ s2.ovfCount ≤ s.ovfCount + 1 ∧
      s2.ovfCount =
        if s.par.hasOvfCounter = true ∧ (occupancy s = s.par.n - 1 ∨
            (occupancy s = s.par.n - 2 ∧ s.wr % 2 ≠ roleNumber role))
        then min (s.ovfCount + 1) (2 ^ s.par.ovfWidth - 1) else s.ovfCount)

/-! ### NOP, RISE and FALL -/

/-- R190: the word `0x000` is NOP, and NOP changes nothing. -/
def Obligations.NopChangesNothing : Prop :=
  decode 0x000#11 = .nop ∧ ∀ s : State, exec .nop s = .next s

/-- R142 (a), (c), R144: with `EN = 0` both edge handlers change nothing; in direct mode RISE asserts and
FALL deasserts the output, and nothing else changes: no cursor and no slot. -/
def Obligations.EdgesOutsideDelayedMode : Prop :=
  ∀ s : State,
    (s.en = false → exec .rise s = .next s ∧ exec .fall s = .next s) ∧
    (s.en = true → s.hd = false →
      exec .rise s = .next { s with out := true } ∧ exec .fall s = .next { s with out := false })

/-- R140 in delayed mode: the target `now +_W LAT` is written at the writer, and once more at the next slot
when the writer was odd. Every other slot reads as before; beside slots and writer only `OVF_COUNT` may
change, and R123 gives its value: one more, saturating, when the counter exists and one of the pushes found
`N − 1` entries. -/
def Obligations.RiseEnqueuesTarget : Prop :=
  ∀ s : State, paramsOk s.par = true → s.wr < s.par.n → s.en = true → s.hd = true →
    ∃ s', exec .rise s = .next s' ∧
      s' = { s with wr := s'.wr, slots := s'.slots, ovfCount := s'.ovfCount } ∧
      (s.par.hasOvfCounter = false → s'.ovfCount = s.ovfCount) ∧
      (s.rd < s.par.n → s'.ovfCount =
        if s.par.hasOvfCounter = true ∧
            (occupancy s = s.par.n - 1 ∨ (occupancy s = s.par.n - 2 ∧ s.wr % 2 = 1))
        then min (s.ovfCount + 1) (2 ^ s.par.ovfWidth - 1) else s.ovfCount) ∧
      (s.wr % 2 = 0 → s'.wr = inc s.par.n s.wr ∧
        ∀ j, Memory.read s'.slots j =
          if j = s.wr then some ((nowOf s + s.lat) % 2 ^ s.par.w) else Memory.read s.slots j) ∧
      (s.wr % 2 = 1 → s'.wr = inc s.par.n (inc s.par.n s.wr) ∧
        ∀ j, Memory.read s'.slots j =
          if j = s.wr ∨ j = inc s.par.n s.wr then some ((nowOf s + s.lat) % 2 ^ s.par.w)
          else Memory.read s.slots j)

/-- R141 in delayed mode: as for RISE, with the second write when the writer was even; `OVF_COUNT` as R123
says. -/
def Obligations.FallEnqueuesTarget : Prop :=
  ∀ s : State, paramsOk s.par = true → s.wr < s.par.n → s.en = true → s.hd = true →
    ∃ s', exec .fall s = .next s' ∧
      s' = { s with wr := s'.wr, slots := s'.slots, ovfCount := s'.ovfCount } ∧
      (s.par.hasOvfCounter = false → s'.ovfCount = s.ovfCount) ∧
      (s.rd < s.par.n → s'.ovfCount =
        if s.par.hasOvfCounter = true ∧
            (occupancy s = s.par.n - 1 ∨ (occupancy s = s.par.n - 2 ∧ s.wr % 2 = 0))
        then min (s.ovfCount + 1) (2 ^ s.par.ovfWidth - 1) else s.ovfCount) ∧
      (s.wr % 2 = 1 → s'.wr = inc s.par.n s.wr ∧
        ∀ j, Memory.read s'.slots j =
          if j = s.wr then some ((nowOf s + s.lat) % 2 ^ s.par.w) else Memory.read s.slots j) ∧
      (s.wr % 2 = 0 → s'.wr = inc s.par.n (inc s.par.n s.wr) ∧
        ∀ j, Memory.read s'.slots j =
          if j = s.wr ∨ j = inc s.par.n s.wr then some ((nowOf s + s.lat) % 2 ^ s.par.w)
          else Memory.read s.slots j)

/-! ### POLL -/

/-- R160, R161, R163, R164: POLL at `DPH = IDLE` changes nothing unless the mode is delayed and the queue
shows an entry; so `OUT` holds its level. -/
def Obligations.PollIdleWhenNothingToDo : Prop :=
  ∀ s : State, s.dph = .idle → (s.en = false ∨ s.hd = false ∨ s.rd = s.wr) →
    exec .poll s = .next s

/-- R160, R124, R125, R170: in ATOMIC mode a POLL in delayed mode with a visible entry pops the longest due
prefix of the visible entries, and drives `OUT` from the parity of the reader it leaves. Nothing else
changes. The slots of the ring range are written, as R38(b) says they are. -/
def Obligations.PollPopsDuePrefix : Prop :=
  ∀ s : State, Inv s → RingWritten s → s.par.pollMode = .atomic →
    s.en = true → s.hd = true → s.rd ≠ s.wr →
    ∃ k, k ≤ occupancy s ∧
      exec .poll s = .next { s with
        rd := (s.rd + k) % s.par.n, out := decide ((s.rd + k) % s.par.n % 2 = 1) } ∧
      (∀ j, j < k → ∃ ts, Memory.read s.slots ((s.rd + j) % s.par.n) = some ts ∧
        due s.par.w ts (nowOf s) = true) ∧
      (k < occupancy s → ∃ ts, Memory.read s.slots ((s.rd + k) % s.par.n) = some ts ∧
        due s.par.w ts (nowOf s) = false)

/-- R171: a POLL in INTERLEAVED mode issued at `DPH = IDLE` answers as a POLL in ATOMIC mode from the same
state does, except for the locals: the same next state, or the same fault. -/
def Obligations.InterleavedPollRefinesAtomic : Prop :=
  ∀ s : State, Inv s → s.dph = .idle →
    let si := { s with par := { s.par with pollMode := .interleaved } }
    let sa := { s with par := { s.par with pollMode := .atomic } }
    match exec .poll si, exec .poll sa with
    | .next a, .next b => { a with par := sa.par, rL := s.rL, tL := s.tL, pL := s.pL } = b
    | .fault f, .fault g => f = g
    | _, _ => False

/-- R161, R172: in INTERLEAVED mode a POLL, from whatever phase, performs the micro-step `DPH` selects and
goes on until `DPH = IDLE`: so it completes the iteration in progress and starts no new one. It answers a
state at `DPH = IDLE` that differs in the reader, the output and the dispatcher's own state only, or fault 4
for a slot that is unwritten. It never runs past the bound. -/
def Obligations.InterleavedPollTerminates : Prop :=
  ∀ s : State, Inv s → s.par.pollMode = .interleaved →
    exec .poll s =
      andThen (exec .pstep s) (fun s1 => if s1.dph = .idle then .next s1 else exec .poll s1) ∧
    ((∃ s', exec .poll s = .next s' ∧ s'.dph = .idle ∧
      s' = { s with rd := s'.rd, out := s'.out, dph := s'.dph, rL := s'.rL, tL := s'.tL, pL := s'.pL }) ∨
    ∃ i, i < s.par.n ∧ Memory.read s.slots i = none ∧ exec .poll s = .fault (.unwrittenSlotRead i))

/-- R38(c), R161: where no lost reset is in progress, an INTERLEAVED POLL answers a next state. -/
def Obligations.InterleavedPollCompletes : Prop :=
  ∀ s : State, Inv s → s.par.pollMode = .interleaved → RingWritten s → PopCoherent s →
    ∃ s', exec .poll s = .next s' ∧ s'.dph = .idle ∧ RingWritten s'

/-! ### PSTEP -/

/-- R163, R164, R165: IDLE reads the mode and SNAP compares the cursors, changing the phase only; TIME
samples the clock, `T_k mod 2^W`. -/
def Obligations.PstepStartsIteration : Prop :=
  ∀ s : State, s.par.pollMode = .interleaved →
    (s.dph = .idle →
      exec .pstep s = .next { s with dph := if s.en = true ∧ s.hd = true then .snap else .idle }) ∧
    (s.dph = .snap → exec .pstep s = .next { s with dph := if s.rd = s.wr then .idle else .time }) ∧
    (s.dph = .time →
      exec .pstep s = .next { s with tL := some (s.clock % 2 ^ s.par.w), dph := .test })

/-- R166: the TEST micro-step, in its three cases, and fault 4 when the head slot is unwritten. -/
def Obligations.PstepTestReadsHead : Prop :=
  ∀ s : State, s.par.pollMode = .interleaved → s.dph = .test →
    (s.rd = s.wr → exec .pstep s = .next { s with rL := some s.rd, dph := .par }) ∧
    (∀ t ts, s.rd ≠ s.wr → s.rd < s.par.n → s.tL = some t → Memory.read s.slots s.rd = some ts →
      exec .pstep s = .next { s with
        rL := some s.rd, dph := if due s.par.w ts t = true then .commit else .par }) ∧
    (∀ t, s.rd ≠ s.wr → s.rd < s.par.n → s.tL = some t → Memory.read s.slots s.rd = none →
      exec .pstep s = .fault (.unwrittenSlotRead s.rd))

/-- R167: the COMMIT micro-step writes the reader from the local copy, whatever the reader holds. -/
def Obligations.PstepCommitPopsFromLocal : Prop :=
  ∀ (s : State) (r : Nat), s.par.pollMode = .interleaved → s.dph = .commit → s.rL = some r →
    exec .pstep s = .next { s with rd := (r + 1) % s.par.n, dph := .test }

/-- R168, R169, R170: PAR reads the reader parity, and DRIVE drives the output from the parity read. -/
def Obligations.PstepParThenDrive : Prop :=
  (∀ s : State, s.par.pollMode = .interleaved → s.dph = .par →
    exec .pstep s = .next { s with pL := some (decide (s.rd % 2 = 1)), dph := .drive }) ∧
  ∀ (s : State) (b : Bool), s.par.pollMode = .interleaved → s.dph = .drive → s.pL = some b →
    exec .pstep s = .next { s with out := b, dph := .idle }

/-- The stops that are the model's own (log 7 DESIGN CHOICE, log 8 DEDUCED): a micro-step that would read
an unwritten local faults, and so does a slot access outside `[0, N)`. R30 and R55 say no run has them. -/
def Obligations.StopsInStatesNoRunReaches : Prop :=
  ∀ s : State,
    (s.par.pollMode = .interleaved → s.dph = .test → s.rd ≠ s.wr → s.tL = none →
      exec .pstep s = .fault (.unwrittenLocal .tL)) ∧
    (s.par.pollMode = .interleaved → s.dph = .commit → s.rL = none →
      exec .pstep s = .fault (.unwrittenLocal .rL)) ∧
    (s.par.pollMode = .interleaved → s.dph = .drive → s.pL = none →
      exec .pstep s = .fault (.unwrittenLocal .pL)) ∧
    ∀ i v, s.par.n ≤ i →
      slotRead i s = .error (.slotOutOfRange i) ∧ slotWrite i v s = .fault (.slotOutOfRange i)

/-! ### CFG -/

/-- R181, R195: bytes below `0x20`, and under IGNORE bytes above `0x5F`, change nothing, not even `OUT`,
and are not refused. -/
def Obligations.IgnoredBytesChangeNothing : Prop :=
  (∀ (c : BitVec 5) (s : State), exec (.cfgIgn c) s = .next s) ∧
  (∀ (c : BitVec 5) (s : State), s.par.highPolicy = .ignore → exec (.cfgHighLow c) s = .next s) ∧
  ∀ (c : BitVec 7) (s : State), s.par.highPolicy = .ignore → exec (.cfgHighTop c) s = .next s

/-- R180, R182: CFG of a byte. A byte below `0x20`, and under IGNORE a byte from `0x60` on, changes nothing.
Any other replaces the configuration by `DECODE` of its flag, sets both cursors to 0 and forces the output
low; slots, `OVF_COUNT`, the phase, the locals and the pending state stay. Every byte is legal. -/
def Obligations.CfgIgnoresOrReconfigures : Prop :=
  (∀ c : ConfigByte, configByteOf (decode (configWord c)) = some c) ∧
  ∀ (s : State) (i : Instr) (c : ConfigByte), configByteOf i = some c →
    let d := decodeFlag s.par (BitVec.ofNat 6 ((c.toNat - 0x20) % 64))
    exec i s =
      if c.toNat < 0x20 ∨ (0x60 ≤ c.toNat ∧ s.par.highPolicy = .ignore) then .next s
      else .next { s with
        en := d.enabled, hd := d.hasDelay, lat := d.latencyMs, rd := 0, wr := 0, out := false }

/-- R186: a CFG of a byte with flag `f & 0x1F` and then one of a byte with flag `f`, `f[5] = 1`, leave an
empty queue, a low output and `DECODE(f)`, whatever the state was. -/
def Obligations.DisableThenEnableRoundTrip : Prop :=
  ∀ (s : State) (f : Flag) (i1 i2 : Instr) (c1 c2 : ConfigByte), f.getLsbD 5 = true →
    configByteOf i1 = some c1 → configByteOf i2 = some c2 →
    flagLoaded s.par c1 = some (f &&& 0x1F#6) → flagLoaded s.par c2 = some f →
    ∃ s1 s2, exec i1 s = .next s1 ∧ exec i2 s1 = .next s2 ∧
      s1.en = false ∧ s2.rd = 0 ∧ s2.wr = 0 ∧ s2.out = false ∧
      decodeFlag s.par f = ⟨s2.en, s2.hd, s2.lat⟩

/-- R40, over every step of every agent: if a step changes any of `EN`, `HD`, `LAT`, then it leaves all
three at one result of `DECODE`, with both cursors 0 and the output low. -/
def Obligations.ConfigurationReplacedWholesale : Prop :=
  ∀ (s s' : State) (st : Stimulus), takeStimulus st s = .next s' →
    (s'.en = s.en ∧ s'.hd = s.hd ∧ s'.lat = s.lat) ∨
    (∃ f, decodeFlag s.par f = ⟨s'.en, s'.hd, s'.lat⟩) ∧ s'.rd = 0 ∧ s'.wr = 0 ∧ s'.out = false

/-! ### Interrupts and the environment -/

/-- R203: an edge arrival, in whatever mode, sets its pending bit and nothing else, and a second arrival of
the same polarity before the first is serviced changes nothing; a received byte is appended to `SERQ`. -/
def Obligations.EdgeArrivalsCoalesce : Prop :=
  ∀ s : State,
    runEvent .edgeRise s = .next { s with pendRise := true } ∧
    runEvent .edgeFall s = .next { s with pendFall := true } ∧
    (s.pendRise = true → runEvent .edgeRise s = .next s) ∧
    (s.pendFall = true → runEvent .edgeFall s = .next s) ∧
    ∀ c, runEvent (.byteArrives c) s = .next { s with serq := s.serq ++ [c] }

/-- R204, R209: a service clears its source and is then its handler, RISE, FALL or CFG with the head of
`SERQ`. The last clause is the model's choice (log 10, DESIGN CHOICE): where R204 says only that the engine
has no step, an event that asks for one is refused as `noServiceStep`, which is no code of R201. -/
def Obligations.ServiceClearsAndRunsHandler : Prop :=
  ∀ s : State,
    (mayService s .rise = true →
      runEvent (.service .rise) s = exec .rise { s with pendRise := false }) ∧
    (mayService s .fall = true →
      runEvent (.service .fall) s = exec .fall { s with pendFall := false }) ∧
    (∀ c cs, mayService s .rx = true → s.serq = c :: cs →
      runEvent (.service .rx) s = exec (decode (configWord c)) { s with serq := cs }) ∧
    ∀ src, mayService s src = false → runEvent (.service src) s = .refused (.noServiceStep src)

/-- R206: under ANY every pending source may be serviced; under a fixed order exactly the pending source
with no pending source before it, so at most one. -/
def Obligations.ServiceOrderRespected : Prop :=
  ∀ (s : State) (src : Source),
    (s.par.serviceOrder = .any → (mayService s src = true ↔ isPending s src = true)) ∧
    ∀ o, s.par.serviceOrder = .fixed o →
      (mayService s src = true ↔ isPending s src = true ∧
        ∀ other, isPending s other = true →
          (orderList o).idxOf src ≤ (orderList o).idxOf other)

/-- R207, over a `SERQ` of any length. Over every step of every agent: an arriving byte joins at the end, a
receiver service takes the head and is the CFG of that byte, and nothing else touches `SERQ` but power-on.
So bytes that arrive wait in order, and as many services as there are bytes in `bs` serve exactly `bs` in
order, each in a step of its own; the last one, if it loads, determines the configuration. -/
def Obligations.BytesServedInArrivalOrder : Prop :=
  (∀ (s s' : State) (st : Stimulus), takeStimulus st s = .next s' →
    match st.event with
    | .byteArrives c => s'.serq = s.serq ++ [c]
    | .service .rx => ∃ c, s.serq = c :: s'.serq ∧
        s' = serveByte c { advanceClock st.elapsed s with serq := s'.serq }
    | .powerOn => s'.serq = []
    | .command _ => s'.serq = s.serq
    | .service .rise => s'.serq = s.serq
    | .service .fall => s'.serq = s.serq
    | .edgeRise => s'.serq = s.serq
    | .edgeFall => s'.serq = s.serq) ∧
  (∀ (s : State) (bs : List ConfigByte),
    runEvents (bs.map .byteArrives) s = .next { s with serq := s.serq ++ bs }) ∧
  ∀ (s : State) (bs cs : List ConfigByte), s.serq = bs ++ cs → mayService s .rx = true →
    ∃ s', runEvents (List.replicate bs.length (.service .rx)) s = .next s' ∧
      s' = { bs.foldl (fun t c => serveByte c t) s with serq := cs } ∧
      ∀ front b f, bs = front ++ [b] → flagLoaded s.par b = some f →
        decodeFlag s.par f = ⟨s'.en, s'.hd, s'.lat⟩

/-- R209, R210, R185: no service writes the phase or a dispatcher local, and no service faults where the
writer is in range. -/
def Obligations.ServiceKeepsDispatcherState : Prop :=
  ∀ (s : State) (src : Source), paramsOk s.par = true → s.wr < s.par.n → mayService s src = true →
    ∃ s', runEvent (.service src) s = .next s' ∧
      s'.dph = s.dph ∧ s'.rL = s.rL ∧ s'.tL = s.tL ∧ s'.pL = s.pL

/-! ### Reset, parameters, the step -/

/-- R37: the table of power-on values, for every parameter set. -/
def Obligations.PowerOnTable : Prop :=
  ∀ (p : Params) (t : Nat),
    let s := State.powerOn p t
    s.par = p ∧ s.rd = 0 ∧ s.wr = 0 ∧ (∀ i, Memory.read s.slots i = none) ∧
    decodeFlag p p.resetFlag = ⟨s.en, s.hd, s.lat⟩ ∧
    (p.resetFlag = 0#6 → s.en = false ∧ s.hd = false ∧ s.lat = 0) ∧
    s.out = false ∧ s.dph = .idle ∧ s.rL = none ∧ s.tL = none ∧ s.pL = none ∧ s.ovfCount = 0 ∧
    s.pendRise = false ∧ s.pendFall = false ∧ s.serq = []

/-- R230: a power-on reset in the course of a run sets every piece of state of the block and the platform
to its power-on value; the parameters stay and the clock is not reset. -/
def Obligations.PowerOnResetKeepsClock : Prop :=
  ∀ (s : State) (dt : Nat), paramsOk s.par = true →
    ∃ s', takeStimulus ⟨dt, .powerOn⟩ s = .next s' ∧
      { s' with schedule := [], draws := 0 } = State.powerOn s.par (s.clock + dt)

/-- The host's reset state is the power-on state of the R4 defaults with the capacity of log 2 and the
clock of log 4 (both DESIGN CHOICE): its parameter set is well formed and no draw is planned. -/
def Obligations.ResetIsPowerOn : Prop :=
  State.reset = State.powerOn (Params.standard 8) 0 ∧ paramsOk State.reset.par = true

/-- R5, R233, R201 code 5: a parameter set is well formed exactly under the eight conditions, and a machine
with one that is not refuses every step. -/
def Obligations.BadParametersRefused : Prop :=
  (∀ p : Params, paramsOk p = true ↔
    p.n % 2 = 0 ∧ 2 ≤ p.n ∧ 14 ≤ p.w ∧ 1 ≤ p.delayFactor ∧ 15 * p.delayFactor < 2 ^ (p.w - 1) ∧
      8 * 1000 < 2 ^ (p.w - 1) ∧ 8 * p.exp0Exponent < 2 ^ (p.w - 1) ∧ 1 ≤ p.ovfWidth) ∧
  (∀ s : State, paramsOk s.par = false → step s = .refused (.badParameters s.par)) ∧
  ∀ p, refusalCode (.badParameters p) = some 5

/-- A step runs the decoded instruction. The plan is the model's choice (log 3, DESIGN CHOICE): the field
`schedule`, its head taken first, and the head's elapsed time added to the clock. When a command word is
planned next, step is exec of the instruction the word decodes to (R70), at the clock value the plan gives
(R83); the plan loses that entry and nothing else changes before. -/
def Obligations.StepRunsDecodedCommand : Prop :=
  ∀ (s : State) (dt : Nat) (w : CmdWord) (rest : List Stimulus),
    paramsOk s.par = true → s.schedule = ⟨dt, .command w⟩ :: rest →
    step s = exec (decode w) { s with schedule := rest, clock := s.clock + dt }

/-- R215, R233: no step turns the clock back and none changes a parameter. -/
def Obligations.ClockAndParametersMonotone : Prop :=
  ∀ s s' : State, step s = .next s' → s.clock ≤ s'.clock ∧ s'.par = s.par

/-! ### Invariants -/

/-- The invariant holds after power-on with every well-formed parameter set (R37, R234). -/
def Obligations.InvariantAtPowerOn : Prop :=
  (∀ (p : Params) (t : Nat), paramsOk p = true → Inv (State.powerOn p t)) ∧ Inv State.reset

/-- Every step of every agent keeps the invariant: cursors in range, slots canonical and `W`-bit, one
`DECODE` result in the configuration, locals written before they are read (R21 to R30, R38(a), R40). -/
def Obligations.StepKeepsInvariant : Prop :=
  ∀ s s' : State, Inv s → step s = .next s' → Inv s'

/-- R38(b): in ATOMIC mode the ring range stays written, and no step of any agent faults. -/
def Obligations.AtomicNeverReadsUnwritten : Prop :=
  ∀ (s : State) (st : Stimulus), Inv s → s.par.pollMode = .atomic → RingWritten s →
    (∀ s', takeStimulus st s = .next s' → RingWritten s') ∧ ∀ f, takeStimulus st s ≠ .fault f

/-- R38(c): in INTERLEAVED mode the ring range stays written, and no step faults, except across a loading
CFG that comes between a TEST that chose COMMIT and that COMMIT. -/
def Obligations.InterleavedKeepsRingWritten : Prop :=
  ∀ (s : State) (st : Stimulus), Inv s → s.par.pollMode = .interleaved → RingWritten s →
    PopCoherent s → ¬(s.dph = .commit ∧ loadsConfig st.event s = true) →
    (∀ s', takeStimulus st s = .next s' → RingWritten s' ∧ PopCoherent s') ∧
    ∀ f, takeStimulus st s ≠ .fault f

/-- R175: in ATOMIC mode every step keeps: in delayed mode `OUT` is the reader parity. -/
def Obligations.AtomicOutputFollowsReader : Prop :=
  ∀ s s' : State, Inv s → s.par.pollMode = .atomic →
    (s.en = true → s.hd = true → s.out = decide (s.rd % 2 = 1)) →
    step s = .next s' →
    (s'.en = true → s'.hd = true → s'.out = decide (s'.rd % 2 = 1))

/-! ### Hazards and derived properties -/

/-- R187, R211, R232: with `EN = 0` RISE and FALL change nothing, and with no iteration in progress neither
do POLL and PSTEP. An edge that arrives and is serviced in disabled mode leaves exactly the state before it
arrived, so nothing of it carries over to the CFG that enables the block. -/
def Obligations.DisabledModeEmitsNothing : Prop :=
  ∀ s : State, s.en = false →
    exec .rise s = .next s ∧ exec .fall s = .next s ∧
    (s.dph = .idle → exec .poll s = .next s ∧ (s.par.pollMode = .interleaved → exec .pstep s = .next s)) ∧
    (s.pendRise = false → mayService { s with pendRise := true } .rise = true →
      runEvents [.edgeRise, .service .rise] s = .next s) ∧
    (s.pendFall = false → mayService { s with pendFall := true } .fall = true →
      runEvents [.edgeFall, .service .fall] s = .next s)

/-- R239: any loading CFG, as a command or as the service of the waiting byte, at `DPH = COMMIT` with
`r_l = k` is followed by a COMMIT that writes `RD` over the reset cursor: unless `k = N − 1` the queue then
shows `N − k − 1` ghost entries, and the next TEST faults when slot `k + 1` is unwritten. -/
def Obligations.LostReset : Prop :=
  ∀ (s : State) (k : Nat) (c : ConfigByte) (f : Flag), paramsOk s.par = true →
    s.par.pollMode = .interleaved → s.dph = .commit → s.rL = some k → k < s.par.n →
    flagLoaded s.par c = some f →
    let losesReset := fun (answer : Result) => ∃ s1 s2,
      answer = .next s1 ∧ exec .pstep s1 = .next s2 ∧
      s1.rd = 0 ∧ s1.wr = 0 ∧ s1.out = false ∧ decodeFlag s.par f = ⟨s1.en, s1.hd, s1.lat⟩ ∧
      s2 = { s1 with rd := (k + 1) % s.par.n, dph := .test } ∧ occupancy s2 = s.par.n - k - 1 ∧
      ∀ t, s.tL = some t → k + 1 < s.par.n → Memory.read s.slots (k + 1) = none →
        exec .pstep s2 = .fault (.unwrittenSlotRead (k + 1))
    (∀ i, configByteOf i = some c → losesReset (exec i s)) ∧
    (∀ cs, s.serq = c :: cs → mayService s .rx = true → losesReset (runEvent (.service .rx) s))

/-- R240: any loading CFG, as a command or as the service of the waiting byte, at `DPH = DRIVE` with
`p_l = 1` is followed by a DRIVE that asserts the output over the forced deassert, in whatever mode the byte
selects, with the cursors reset. -/
def Obligations.StaleDrive : Prop :=
  ∀ (s : State) (c : ConfigByte) (f : Flag), s.par.pollMode = .interleaved → s.dph = .drive →
    s.pL = some true → flagLoaded s.par c = some f →
    let assertsAgain := fun (answer : Result) => ∃ s1 s2,
      answer = .next s1 ∧ exec .pstep s1 = .next s2 ∧
      s1.rd = 0 ∧ s1.wr = 0 ∧ s1.out = false ∧ decodeFlag s.par f = ⟨s1.en, s1.hd, s1.lat⟩ ∧
      s2 = { s1 with out := true, dph := .idle }
    (∀ i, configByteOf i = some c → assertsAgain (exec i s)) ∧
    (∀ cs, s.serq = c :: cs → mayService s .rx = true → assertsAgain (runEvent (.service .rx) s))

/-- R129: two adjacent visible slots with one timestamp are popped by an ATOMIC POLL both or neither: the
reader never stops between them, unless it stood there already. -/
def Obligations.CompensatedPairCollapses : Prop :=
  ∀ (s s' : State) (k ts : Nat), Inv s → RingWritten s → s.par.pollMode = .atomic →
    k + 1 < occupancy s →
    Memory.read s.slots ((s.rd + k) % s.par.n) = some ts →
    Memory.read s.slots ((s.rd + k + 1) % s.par.n) = some ts →
    exec .poll s = .next s' →
    s'.rd ≠ (s.rd + k + 1) % s.par.n

/-- R242: both edges pending in delayed mode at `RD = WR = 0`, serviced at one clock value. In arrival
order the pulse takes two slots; in the other order three, and the writer ends odd. A POLL from
`DPH = IDLE`, in either mode, once the entries are due, leaves `OUT` low in the one and high in the other. -/
def Obligations.ServiceOrderDecidesLevel : Prop :=
  ∀ s : State, paramsOk s.par = true → s.par.serviceOrder = .any → 4 ≤ s.par.n →
    s.en = true → s.hd = true → s.rd = 0 → s.wr = 0 → s.pendRise = true → s.pendFall = true →
    let t := (nowOf s + s.lat) % 2 ^ s.par.w
    let settlesAt := fun (a : State) (level : Bool) => ∀ dt, s.dph = .idle →
      due s.par.w t ((s.clock + dt) % 2 ^ s.par.w) = true →
      ∃ a', exec .poll (advanceClock dt a) = .next a' ∧ a'.rd = a.wr ∧ a'.wr = a.wr ∧ a'.out = level
    (∃ a, runEvents [.service .rise, .service .fall] s = .next a ∧
      a.wr = 2 ∧ visible a = [some t, some t] ∧ settlesAt a false) ∧
    (∃ b, runEvents [.service .fall, .service .rise] s = .next b ∧
      b.wr = 3 ∧ visible b = [some t, some t, some t] ∧ settlesAt b true)

/-- R130, over every step of every agent that resets no queue and overflows none (R127 (a)): the visible
entries afterwards are those before, then what the step pushed, less as many from the front as the reader
moved. So entries leave in the order they came, each once. Only the dispatcher pops, a COMMIT exactly one;
and `FifoCoherent`, which a COMMIT needs, is kept. -/
def Obligations.QueueIsFifo : Prop :=
  ∀ (s s' : State) (st : Stimulus), Inv s → FifoCoherent s →
    loadsConfig st.event s = false → st.event ≠ .powerOn → takeStimulus st s = .next s' →
    let pushed := entriesPushed st.event (advanceClock st.elapsed s)
    let popped := (s'.rd + (s.par.n - s.rd)) % s.par.n
    occupancy s + pushed.length < s.par.n →
    visible s' = (visible s ++ pushed.map some).drop popped ∧ popped ≤ occupancy s ∧ FifoCoherent s' ∧
      (isDispatcherStep st.event = false → popped = 0) ∧
      (st.event = .command (encode .pstep) → popped = if s.dph = .commit then 1 else 0)

/-- R38, R175, R234: every state of a run meets the invariant, and in ATOMIC mode its ring range is written
and in delayed mode its output is the reader parity. -/
def Obligations.ReachableStatesAreSafe : Prop :=
  ∀ (p : Params) (s : State), Reachable p s →
    Inv s ∧ s.par = p ∧
    (p.pollMode = .atomic → RingWritten s ∧
      (s.en = true → s.hd = true → s.out = decide (s.rd % 2 = 1)))
end

