-- ==== Sys2Proof/Laws/Memory.lean ====
section
/-! SUPPORT. The slot list: a read after a write, and that a write keeps the canonical form and the
bounds (20_memory.md R52, R53). -/

namespace Sys2Proof.Machine

/-- A write replaces the slot it names and leaves every other slot alone (R53). -/
@[simp] theorem Memory.read_write (m : Memory) (i j : Nat) (v : Nat) :
    Memory.read (Memory.write m i v) j = if j = i then some v else Memory.read m j := by
  induction m with
  | nil => simp [Memory.write, Memory.read]
  | cons c m ih =>
    obtain ⟨k, u⟩ := c
    simp only [Memory.write]
    split
    · simp [Memory.read]
    · split
      · subst k
        simp only [Memory.read]
        split <;> rfl
      · simp only [Memory.read, ih]
        by_cases hj : j = k
        · subst j
          have hki : k ≠ i := fun h => by omega
          simp [hki]
        · simp [hj]

/-- An index below every listed one stays below after a write above it. -/
theorem Memory.all_above_write (m : Memory) (k i : Nat) (v : Nat) (hki : k < i)
    (h : m.all (fun c => decide (k < c.1)) = true) :
    (Memory.write m i v).all (fun c => decide (k < c.1)) = true := by
  induction m with
  | nil => simp [Memory.write, hki]
  | cons c m ih =>
    obtain ⟨j, u⟩ := c
    simp only [List.all_cons, Bool.and_eq_true] at h
    obtain ⟨hj, hm⟩ := h
    simp only [Memory.write]
    split
    · simp only [List.all_cons, Bool.and_eq_true]
      exact ⟨decide_eq_true hki, hj, hm⟩
    · split
      · simp only [List.all_cons, Bool.and_eq_true]
        exact ⟨decide_eq_true hki, hm⟩
      · simp only [List.all_cons, Bool.and_eq_true]
        exact ⟨hj, ih hm⟩

/-- Every write keeps the canonical form. -/
theorem Memory.write_wf (m : Memory) (i : Nat) (v : Nat) (h : Memory.wf m = true) :
    Memory.wf (Memory.write m i v) = true := by
  induction m with
  | nil => rfl
  | cons c m ih =>
    obtain ⟨j, u⟩ := c
    simp only [Memory.wf, Bool.and_eq_true] at h
    obtain ⟨hj, hm⟩ := h
    simp only [Memory.write]
    split
    · rename_i hlt
      simp only [Memory.wf, Bool.and_eq_true, List.all_cons]
      refine ⟨⟨decide_eq_true hlt, ?_⟩, hj, hm⟩
      refine List.all_eq_true.2 fun c hc => ?_
      have := of_decide_eq_true (List.all_eq_true.1 hj c hc)
      exact decide_eq_true (by omega)
    · split
      · rename_i heq
        subst heq
        simp only [Memory.wf, Bool.and_eq_true]
        exact ⟨hj, hm⟩
      · simp only [Memory.wf, Bool.and_eq_true]
        exact ⟨Memory.all_above_write m j i v (by omega) hj, ih hm⟩

/-- A write of an existing slot and a `W`-bit value keeps the bounds. -/
theorem Memory.write_bounded (n w : Nat) (m : Memory) (i : Nat) (v : Nat) (hi : i < n)
    (hv : v < 2 ^ w) (h : Memory.bounded n w m = true) :
    Memory.bounded n w (Memory.write m i v) = true := by
  have key : (decide (i < n) && decide (v < 2 ^ w)) = true := by simp [hi, hv]
  induction m with
  | nil => simpa [Memory.write, Memory.bounded] using ⟨hi, hv⟩
  | cons c m ih =>
    obtain ⟨j, u⟩ := c
    simp only [Memory.bounded, List.all_cons] at h ih ⊢
    obtain ⟨hj, hm⟩ := Bool.and_eq_true_iff.1 h
    simp only [Memory.write]
    split
    · simp only [List.all_cons]
      exact Bool.and_eq_true_iff.2 ⟨key, Bool.and_eq_true_iff.2 ⟨hj, hm⟩⟩
    · split
      · simp only [List.all_cons]
        exact Bool.and_eq_true_iff.2 ⟨key, hm⟩
      · simp only [List.all_cons]
        exact Bool.and_eq_true_iff.2 ⟨hj, ih hm⟩

/-- A slot that reads as written is in bounds. -/
theorem Memory.read_bounded (n w : Nat) (m : Memory) (i : Nat) (v : Nat)
    (h : Memory.bounded n w m = true) (hr : Memory.read m i = some v) : i < n ∧ v < 2 ^ w := by
  induction m with
  | nil => simp [Memory.read] at hr
  | cons c m ih =>
    obtain ⟨j, u⟩ := c
    simp only [Memory.bounded, List.all_cons, Bool.and_eq_true, decide_eq_true_eq] at h ih
    simp only [Memory.read] at hr
    split at hr
    · rename_i hij
      cases hr
      exact hij ▸ h.1
    · exact ih h.2 hr

/-- After power-on the slot list has its canonical form: it is empty (R37). -/
theorem State.powerOn_slots_wf (p : Params) (t : Nat) : Memory.wf (State.powerOn p t).slots = true := rfl

theorem State.reset_slots_wf : Memory.wf State.reset.slots = true := rfl

end Sys2Proof.Machine
end

