-- ==== Sys2Proof/Laws/State.lean ====
section
/-! SUPPORT. One lemma per field for each named update of the state. -/

namespace Sys2Proof.Machine

/-! ### `loadConfig` -/

@[simp] theorem loadConfig_par (d : Decoded) (s : State) : (loadConfig d s).par = s.par := rfl
@[simp] theorem loadConfig_rd (d : Decoded) (s : State) : (loadConfig d s).rd = s.rd := rfl
@[simp] theorem loadConfig_wr (d : Decoded) (s : State) : (loadConfig d s).wr = s.wr := rfl
@[simp] theorem loadConfig_slots (d : Decoded) (s : State) : (loadConfig d s).slots = s.slots := rfl
@[simp] theorem loadConfig_en (d : Decoded) (s : State) : (loadConfig d s).en = d.enabled := rfl
@[simp] theorem loadConfig_hd (d : Decoded) (s : State) : (loadConfig d s).hd = d.hasDelay := rfl
@[simp] theorem loadConfig_lat (d : Decoded) (s : State) : (loadConfig d s).lat = d.latencyMs := rfl
@[simp] theorem loadConfig_out (d : Decoded) (s : State) : (loadConfig d s).out = s.out := rfl
@[simp] theorem loadConfig_ovfCount (d : Decoded) (s : State) : (loadConfig d s).ovfCount = s.ovfCount := rfl
@[simp] theorem loadConfig_dph (d : Decoded) (s : State) : (loadConfig d s).dph = s.dph := rfl
@[simp] theorem loadConfig_rL (d : Decoded) (s : State) : (loadConfig d s).rL = s.rL := rfl
@[simp] theorem loadConfig_tL (d : Decoded) (s : State) : (loadConfig d s).tL = s.tL := rfl
@[simp] theorem loadConfig_pL (d : Decoded) (s : State) : (loadConfig d s).pL = s.pL := rfl
@[simp] theorem loadConfig_pendRise (d : Decoded) (s : State) : (loadConfig d s).pendRise = s.pendRise := rfl
@[simp] theorem loadConfig_pendFall (d : Decoded) (s : State) : (loadConfig d s).pendFall = s.pendFall := rfl
@[simp] theorem loadConfig_serq (d : Decoded) (s : State) : (loadConfig d s).serq = s.serq := rfl
@[simp] theorem loadConfig_clock (d : Decoded) (s : State) : (loadConfig d s).clock = s.clock := rfl
@[simp] theorem loadConfig_schedule (d : Decoded) (s : State) : (loadConfig d s).schedule = s.schedule := rfl
@[simp] theorem loadConfig_draws (d : Decoded) (s : State) : (loadConfig d s).draws = s.draws := rfl

/-! ### `qreset` -/

@[simp] theorem qreset_par (s : State) : (qreset s).par = s.par := rfl
@[simp] theorem qreset_rd (s : State) : (qreset s).rd = 0 := rfl
@[simp] theorem qreset_wr (s : State) : (qreset s).wr = 0 := rfl
@[simp] theorem qreset_slots (s : State) : (qreset s).slots = s.slots := rfl
@[simp] theorem qreset_en (s : State) : (qreset s).en = s.en := rfl
@[simp] theorem qreset_hd (s : State) : (qreset s).hd = s.hd := rfl
@[simp] theorem qreset_lat (s : State) : (qreset s).lat = s.lat := rfl
@[simp] theorem qreset_out (s : State) : (qreset s).out = s.out := rfl
@[simp] theorem qreset_ovfCount (s : State) : (qreset s).ovfCount = s.ovfCount := rfl
@[simp] theorem qreset_dph (s : State) : (qreset s).dph = s.dph := rfl
@[simp] theorem qreset_rL (s : State) : (qreset s).rL = s.rL := rfl
@[simp] theorem qreset_tL (s : State) : (qreset s).tL = s.tL := rfl
@[simp] theorem qreset_pL (s : State) : (qreset s).pL = s.pL := rfl
@[simp] theorem qreset_pendRise (s : State) : (qreset s).pendRise = s.pendRise := rfl
@[simp] theorem qreset_pendFall (s : State) : (qreset s).pendFall = s.pendFall := rfl
@[simp] theorem qreset_serq (s : State) : (qreset s).serq = s.serq := rfl
@[simp] theorem qreset_clock (s : State) : (qreset s).clock = s.clock := rfl
@[simp] theorem qreset_schedule (s : State) : (qreset s).schedule = s.schedule := rfl
@[simp] theorem qreset_draws (s : State) : (qreset s).draws = s.draws := rfl

/-! ### `driveOut` -/

@[simp] theorem driveOut_par (b : Bool) (s : State) : (driveOut b s).par = s.par := rfl
@[simp] theorem driveOut_rd (b : Bool) (s : State) : (driveOut b s).rd = s.rd := rfl
@[simp] theorem driveOut_wr (b : Bool) (s : State) : (driveOut b s).wr = s.wr := rfl
@[simp] theorem driveOut_slots (b : Bool) (s : State) : (driveOut b s).slots = s.slots := rfl
@[simp] theorem driveOut_en (b : Bool) (s : State) : (driveOut b s).en = s.en := rfl
@[simp] theorem driveOut_hd (b : Bool) (s : State) : (driveOut b s).hd = s.hd := rfl
@[simp] theorem driveOut_lat (b : Bool) (s : State) : (driveOut b s).lat = s.lat := rfl
@[simp] theorem driveOut_out (b : Bool) (s : State) : (driveOut b s).out = b := rfl
@[simp] theorem driveOut_ovfCount (b : Bool) (s : State) : (driveOut b s).ovfCount = s.ovfCount := rfl
@[simp] theorem driveOut_dph (b : Bool) (s : State) : (driveOut b s).dph = s.dph := rfl
@[simp] theorem driveOut_rL (b : Bool) (s : State) : (driveOut b s).rL = s.rL := rfl
@[simp] theorem driveOut_tL (b : Bool) (s : State) : (driveOut b s).tL = s.tL := rfl
@[simp] theorem driveOut_pL (b : Bool) (s : State) : (driveOut b s).pL = s.pL := rfl
@[simp] theorem driveOut_pendRise (b : Bool) (s : State) : (driveOut b s).pendRise = s.pendRise := rfl
@[simp] theorem driveOut_pendFall (b : Bool) (s : State) : (driveOut b s).pendFall = s.pendFall := rfl
@[simp] theorem driveOut_serq (b : Bool) (s : State) : (driveOut b s).serq = s.serq := rfl
@[simp] theorem driveOut_clock (b : Bool) (s : State) : (driveOut b s).clock = s.clock := rfl
@[simp] theorem driveOut_schedule (b : Bool) (s : State) : (driveOut b s).schedule = s.schedule := rfl
@[simp] theorem driveOut_draws (b : Bool) (s : State) : (driveOut b s).draws = s.draws := rfl

/-! ### `advanceClock` -/

@[simp] theorem advanceClock_par (k : Nat) (s : State) : (advanceClock k s).par = s.par := rfl
@[simp] theorem advanceClock_rd (k : Nat) (s : State) : (advanceClock k s).rd = s.rd := rfl
@[simp] theorem advanceClock_wr (k : Nat) (s : State) : (advanceClock k s).wr = s.wr := rfl
@[simp] theorem advanceClock_slots (k : Nat) (s : State) : (advanceClock k s).slots = s.slots := rfl
@[simp] theorem advanceClock_en (k : Nat) (s : State) : (advanceClock k s).en = s.en := rfl
@[simp] theorem advanceClock_hd (k : Nat) (s : State) : (advanceClock k s).hd = s.hd := rfl
@[simp] theorem advanceClock_lat (k : Nat) (s : State) : (advanceClock k s).lat = s.lat := rfl
@[simp] theorem advanceClock_out (k : Nat) (s : State) : (advanceClock k s).out = s.out := rfl
@[simp] theorem advanceClock_ovfCount (k : Nat) (s : State) : (advanceClock k s).ovfCount = s.ovfCount := rfl
@[simp] theorem advanceClock_dph (k : Nat) (s : State) : (advanceClock k s).dph = s.dph := rfl
@[simp] theorem advanceClock_rL (k : Nat) (s : State) : (advanceClock k s).rL = s.rL := rfl
@[simp] theorem advanceClock_tL (k : Nat) (s : State) : (advanceClock k s).tL = s.tL := rfl
@[simp] theorem advanceClock_pL (k : Nat) (s : State) : (advanceClock k s).pL = s.pL := rfl
@[simp] theorem advanceClock_pendRise (k : Nat) (s : State) : (advanceClock k s).pendRise = s.pendRise := rfl
@[simp] theorem advanceClock_pendFall (k : Nat) (s : State) : (advanceClock k s).pendFall = s.pendFall := rfl
@[simp] theorem advanceClock_serq (k : Nat) (s : State) : (advanceClock k s).serq = s.serq := rfl
@[simp] theorem advanceClock_clock (k : Nat) (s : State) : (advanceClock k s).clock = s.clock + k := rfl
@[simp] theorem advanceClock_schedule (k : Nat) (s : State) : (advanceClock k s).schedule = s.schedule := rfl
@[simp] theorem advanceClock_draws (k : Nat) (s : State) : (advanceClock k s).draws = s.draws := rfl

/-! ### `byteArrives` -/

@[simp] theorem byteArrives_par (c : ConfigByte) (s : State) : (byteArrives c s).par = s.par := rfl
@[simp] theorem byteArrives_rd (c : ConfigByte) (s : State) : (byteArrives c s).rd = s.rd := rfl
@[simp] theorem byteArrives_wr (c : ConfigByte) (s : State) : (byteArrives c s).wr = s.wr := rfl
@[simp] theorem byteArrives_slots (c : ConfigByte) (s : State) : (byteArrives c s).slots = s.slots := rfl
@[simp] theorem byteArrives_en (c : ConfigByte) (s : State) : (byteArrives c s).en = s.en := rfl
@[simp] theorem byteArrives_hd (c : ConfigByte) (s : State) : (byteArrives c s).hd = s.hd := rfl
@[simp] theorem byteArrives_lat (c : ConfigByte) (s : State) : (byteArrives c s).lat = s.lat := rfl
@[simp] theorem byteArrives_out (c : ConfigByte) (s : State) : (byteArrives c s).out = s.out := rfl
@[simp] theorem byteArrives_ovfCount (c : ConfigByte) (s : State) : (byteArrives c s).ovfCount = s.ovfCount := rfl
@[simp] theorem byteArrives_dph (c : ConfigByte) (s : State) : (byteArrives c s).dph = s.dph := rfl
@[simp] theorem byteArrives_rL (c : ConfigByte) (s : State) : (byteArrives c s).rL = s.rL := rfl
@[simp] theorem byteArrives_tL (c : ConfigByte) (s : State) : (byteArrives c s).tL = s.tL := rfl
@[simp] theorem byteArrives_pL (c : ConfigByte) (s : State) : (byteArrives c s).pL = s.pL := rfl
@[simp] theorem byteArrives_pendRise (c : ConfigByte) (s : State) : (byteArrives c s).pendRise = s.pendRise := rfl
@[simp] theorem byteArrives_pendFall (c : ConfigByte) (s : State) : (byteArrives c s).pendFall = s.pendFall := rfl
@[simp] theorem byteArrives_serq (c : ConfigByte) (s : State) : (byteArrives c s).serq = s.serq ++ [c] := rfl
@[simp] theorem byteArrives_clock (c : ConfigByte) (s : State) : (byteArrives c s).clock = s.clock := rfl
@[simp] theorem byteArrives_schedule (c : ConfigByte) (s : State) : (byteArrives c s).schedule = s.schedule := rfl
@[simp] theorem byteArrives_draws (c : ConfigByte) (s : State) : (byteArrives c s).draws = s.draws := rfl

/-! ### `configure` -/

@[simp] theorem configure_par (f : Flag) (s : State) : (configure f s).par = s.par := rfl
@[simp] theorem configure_rd (f : Flag) (s : State) : (configure f s).rd = 0 := rfl
@[simp] theorem configure_wr (f : Flag) (s : State) : (configure f s).wr = 0 := rfl
@[simp] theorem configure_slots (f : Flag) (s : State) : (configure f s).slots = s.slots := rfl
@[simp] theorem configure_en (f : Flag) (s : State) : (configure f s).en = (decodeFlag s.par f).enabled := rfl
@[simp] theorem configure_hd (f : Flag) (s : State) : (configure f s).hd = (decodeFlag s.par f).hasDelay := rfl
@[simp] theorem configure_lat (f : Flag) (s : State) : (configure f s).lat = (decodeFlag s.par f).latencyMs := rfl
@[simp] theorem configure_out (f : Flag) (s : State) : (configure f s).out = false := rfl
@[simp] theorem configure_ovfCount (f : Flag) (s : State) : (configure f s).ovfCount = s.ovfCount := rfl
@[simp] theorem configure_dph (f : Flag) (s : State) : (configure f s).dph = s.dph := rfl
@[simp] theorem configure_rL (f : Flag) (s : State) : (configure f s).rL = s.rL := rfl
@[simp] theorem configure_tL (f : Flag) (s : State) : (configure f s).tL = s.tL := rfl
@[simp] theorem configure_pL (f : Flag) (s : State) : (configure f s).pL = s.pL := rfl
@[simp] theorem configure_pendRise (f : Flag) (s : State) : (configure f s).pendRise = s.pendRise := rfl
@[simp] theorem configure_pendFall (f : Flag) (s : State) : (configure f s).pendFall = s.pendFall := rfl
@[simp] theorem configure_serq (f : Flag) (s : State) : (configure f s).serq = s.serq := rfl
@[simp] theorem configure_clock (f : Flag) (s : State) : (configure f s).clock = s.clock := rfl
@[simp] theorem configure_schedule (f : Flag) (s : State) : (configure f s).schedule = s.schedule := rfl
@[simp] theorem configure_draws (f : Flag) (s : State) : (configure f s).draws = s.draws := rfl

/-! ### `edgeArrives` -/

@[simp] theorem edgeArrives_par (r : Role) (s : State) : (edgeArrives r s).par = s.par := by cases r <;> rfl
@[simp] theorem edgeArrives_rd (r : Role) (s : State) : (edgeArrives r s).rd = s.rd := by cases r <;> rfl
@[simp] theorem edgeArrives_wr (r : Role) (s : State) : (edgeArrives r s).wr = s.wr := by cases r <;> rfl
@[simp] theorem edgeArrives_slots (r : Role) (s : State) : (edgeArrives r s).slots = s.slots := by cases r <;> rfl
@[simp] theorem edgeArrives_en (r : Role) (s : State) : (edgeArrives r s).en = s.en := by cases r <;> rfl
@[simp] theorem edgeArrives_hd (r : Role) (s : State) : (edgeArrives r s).hd = s.hd := by cases r <;> rfl
@[simp] theorem edgeArrives_lat (r : Role) (s : State) : (edgeArrives r s).lat = s.lat := by cases r <;> rfl
@[simp] theorem edgeArrives_out (r : Role) (s : State) : (edgeArrives r s).out = s.out := by cases r <;> rfl
@[simp] theorem edgeArrives_ovfCount (r : Role) (s : State) : (edgeArrives r s).ovfCount = s.ovfCount := by cases r <;> rfl
@[simp] theorem edgeArrives_dph (r : Role) (s : State) : (edgeArrives r s).dph = s.dph := by cases r <;> rfl
@[simp] theorem edgeArrives_rL (r : Role) (s : State) : (edgeArrives r s).rL = s.rL := by cases r <;> rfl
@[simp] theorem edgeArrives_tL (r : Role) (s : State) : (edgeArrives r s).tL = s.tL := by cases r <;> rfl
@[simp] theorem edgeArrives_pL (r : Role) (s : State) : (edgeArrives r s).pL = s.pL := by cases r <;> rfl
@[simp] theorem edgeArrives_serq (r : Role) (s : State) : (edgeArrives r s).serq = s.serq := by cases r <;> rfl
@[simp] theorem edgeArrives_clock (r : Role) (s : State) : (edgeArrives r s).clock = s.clock := by cases r <;> rfl
@[simp] theorem edgeArrives_schedule (r : Role) (s : State) : (edgeArrives r s).schedule = s.schedule := by cases r <;> rfl
@[simp] theorem edgeArrives_draws (r : Role) (s : State) : (edgeArrives r s).draws = s.draws := by cases r <;> rfl

@[simp] theorem edgeArrives_on_pendRise (s : State) : (edgeArrives .on s).pendRise = true := rfl
@[simp] theorem edgeArrives_on_pendFall (s : State) : (edgeArrives .on s).pendFall = s.pendFall := rfl
@[simp] theorem edgeArrives_off_pendRise (s : State) : (edgeArrives .off s).pendRise = s.pendRise := rfl
@[simp] theorem edgeArrives_off_pendFall (s : State) : (edgeArrives .off s).pendFall = true := rfl

/-! ### `acceptSource` -/

@[simp] theorem acceptSource_par (src : Source) (s : State) : (acceptSource src s).par = s.par := by cases src <;> rfl
@[simp] theorem acceptSource_rd (src : Source) (s : State) : (acceptSource src s).rd = s.rd := by cases src <;> rfl
@[simp] theorem acceptSource_wr (src : Source) (s : State) : (acceptSource src s).wr = s.wr := by cases src <;> rfl
@[simp] theorem acceptSource_slots (src : Source) (s : State) : (acceptSource src s).slots = s.slots := by cases src <;> rfl
@[simp] theorem acceptSource_en (src : Source) (s : State) : (acceptSource src s).en = s.en := by cases src <;> rfl
@[simp] theorem acceptSource_hd (src : Source) (s : State) : (acceptSource src s).hd = s.hd := by cases src <;> rfl
@[simp] theorem acceptSource_lat (src : Source) (s : State) : (acceptSource src s).lat = s.lat := by cases src <;> rfl
@[simp] theorem acceptSource_out (src : Source) (s : State) : (acceptSource src s).out = s.out := by cases src <;> rfl
@[simp] theorem acceptSource_ovfCount (src : Source) (s : State) : (acceptSource src s).ovfCount = s.ovfCount := by cases src <;> rfl
@[simp] theorem acceptSource_dph (src : Source) (s : State) : (acceptSource src s).dph = s.dph := by cases src <;> rfl
@[simp] theorem acceptSource_rL (src : Source) (s : State) : (acceptSource src s).rL = s.rL := by cases src <;> rfl
@[simp] theorem acceptSource_tL (src : Source) (s : State) : (acceptSource src s).tL = s.tL := by cases src <;> rfl
@[simp] theorem acceptSource_pL (src : Source) (s : State) : (acceptSource src s).pL = s.pL := by cases src <;> rfl
@[simp] theorem acceptSource_clock (src : Source) (s : State) : (acceptSource src s).clock = s.clock := by cases src <;> rfl
@[simp] theorem acceptSource_schedule (src : Source) (s : State) : (acceptSource src s).schedule = s.schedule := by cases src <;> rfl
@[simp] theorem acceptSource_draws (src : Source) (s : State) : (acceptSource src s).draws = s.draws := by cases src <;> rfl

@[simp] theorem acceptSource_rise_pendRise (s : State) : (acceptSource .rise s).pendRise = false := rfl
@[simp] theorem acceptSource_fall_pendFall (s : State) : (acceptSource .fall s).pendFall = false := rfl
@[simp] theorem acceptSource_rx_serq (s : State) : (acceptSource .rx s).serq = s.serq.tail := rfl
@[simp] theorem acceptSource_rise_pendFall (s : State) : (acceptSource .rise s).pendFall = s.pendFall := rfl
@[simp] theorem acceptSource_rise_serq (s : State) : (acceptSource .rise s).serq = s.serq := rfl
@[simp] theorem acceptSource_fall_pendRise (s : State) : (acceptSource .fall s).pendRise = s.pendRise := rfl
@[simp] theorem acceptSource_fall_serq (s : State) : (acceptSource .fall s).serq = s.serq := rfl
@[simp] theorem acceptSource_rx_pendRise (s : State) : (acceptSource .rx s).pendRise = s.pendRise := rfl
@[simp] theorem acceptSource_rx_pendFall (s : State) : (acceptSource .rx s).pendFall = s.pendFall := rfl

/-! ### `countOverflow` -/

@[simp] theorem countOverflow_par (s : State) : (countOverflow s).par = s.par := by unfold countOverflow; split <;> rfl
@[simp] theorem countOverflow_rd (s : State) : (countOverflow s).rd = s.rd := by unfold countOverflow; split <;> rfl
@[simp] theorem countOverflow_wr (s : State) : (countOverflow s).wr = s.wr := by unfold countOverflow; split <;> rfl
@[simp] theorem countOverflow_slots (s : State) : (countOverflow s).slots = s.slots := by unfold countOverflow; split <;> rfl
@[simp] theorem countOverflow_en (s : State) : (countOverflow s).en = s.en := by unfold countOverflow; split <;> rfl
@[simp] theorem countOverflow_hd (s : State) : (countOverflow s).hd = s.hd := by unfold countOverflow; split <;> rfl
@[simp] theorem countOverflow_lat (s : State) : (countOverflow s).lat = s.lat := by unfold countOverflow; split <;> rfl
@[simp] theorem countOverflow_out (s : State) : (countOverflow s).out = s.out := by unfold countOverflow; split <;> rfl
@[simp] theorem countOverflow_dph (s : State) : (countOverflow s).dph = s.dph := by unfold countOverflow; split <;> rfl
@[simp] theorem countOverflow_rL (s : State) : (countOverflow s).rL = s.rL := by unfold countOverflow; split <;> rfl
@[simp] theorem countOverflow_tL (s : State) : (countOverflow s).tL = s.tL := by unfold countOverflow; split <;> rfl
@[simp] theorem countOverflow_pL (s : State) : (countOverflow s).pL = s.pL := by unfold countOverflow; split <;> rfl
@[simp] theorem countOverflow_pendRise (s : State) : (countOverflow s).pendRise = s.pendRise := by unfold countOverflow; split <;> rfl
@[simp] theorem countOverflow_pendFall (s : State) : (countOverflow s).pendFall = s.pendFall := by unfold countOverflow; split <;> rfl
@[simp] theorem countOverflow_serq (s : State) : (countOverflow s).serq = s.serq := by unfold countOverflow; split <;> rfl
@[simp] theorem countOverflow_clock (s : State) : (countOverflow s).clock = s.clock := by unfold countOverflow; split <;> rfl
@[simp] theorem countOverflow_schedule (s : State) : (countOverflow s).schedule = s.schedule := by unfold countOverflow; split <;> rfl
@[simp] theorem countOverflow_draws (s : State) : (countOverflow s).draws = s.draws := by unfold countOverflow; split <;> rfl

theorem countOverflow_ovfCount (s : State) :
    (countOverflow s).ovfCount =
      if s.par.hasOvfCounter && decide (s.wr = s.rd) then min (s.ovfCount + 1) (2 ^ s.par.ovfWidth - 1)
      else s.ovfCount := by
  unfold countOverflow; split <;> rfl

/-! ### `advanceWriter` -/

@[simp] theorem advanceWriter_par (s : State) : (advanceWriter s).par = s.par := by simp [advanceWriter]
@[simp] theorem advanceWriter_rd (s : State) : (advanceWriter s).rd = s.rd := by simp [advanceWriter]
@[simp] theorem advanceWriter_wr (s : State) : (advanceWriter s).wr = inc s.par.n s.wr := by simp [advanceWriter]
@[simp] theorem advanceWriter_slots (s : State) : (advanceWriter s).slots = s.slots := by simp [advanceWriter]
@[simp] theorem advanceWriter_en (s : State) : (advanceWriter s).en = s.en := by simp [advanceWriter]
@[simp] theorem advanceWriter_hd (s : State) : (advanceWriter s).hd = s.hd := by simp [advanceWriter]
@[simp] theorem advanceWriter_lat (s : State) : (advanceWriter s).lat = s.lat := by simp [advanceWriter]
@[simp] theorem advanceWriter_out (s : State) : (advanceWriter s).out = s.out := by simp [advanceWriter]
@[simp] theorem advanceWriter_dph (s : State) : (advanceWriter s).dph = s.dph := by simp [advanceWriter]
@[simp] theorem advanceWriter_rL (s : State) : (advanceWriter s).rL = s.rL := by simp [advanceWriter]
@[simp] theorem advanceWriter_tL (s : State) : (advanceWriter s).tL = s.tL := by simp [advanceWriter]
@[simp] theorem advanceWriter_pL (s : State) : (advanceWriter s).pL = s.pL := by simp [advanceWriter]
@[simp] theorem advanceWriter_pendRise (s : State) : (advanceWriter s).pendRise = s.pendRise := by simp [advanceWriter]
@[simp] theorem advanceWriter_pendFall (s : State) : (advanceWriter s).pendFall = s.pendFall := by simp [advanceWriter]
@[simp] theorem advanceWriter_serq (s : State) : (advanceWriter s).serq = s.serq := by simp [advanceWriter]
@[simp] theorem advanceWriter_clock (s : State) : (advanceWriter s).clock = s.clock := by simp [advanceWriter]
@[simp] theorem advanceWriter_schedule (s : State) : (advanceWriter s).schedule = s.schedule := by simp [advanceWriter]
@[simp] theorem advanceWriter_draws (s : State) : (advanceWriter s).draws = s.draws := by simp [advanceWriter]

end Sys2Proof.Machine
end

