-- ==== Sys2Proof/Laws/Ops.lean ====
section
/-! SUPPORT. What each shared operation can answer, said once; callers cite these instead of unfolding. -/

namespace Sys2Proof.Machine

/-! ### Going on from an answer -/

@[simp] theorem andThen_next (s : State) (k : State → Result) : andThen (.next s) k = k s := rfl
@[simp] theorem andThen_fault (f : Fault) (k : State → Result) : andThen (.fault f) k = .fault f := rfl
@[simp] theorem andThen_refused (x : Refusal) (k : State → Result) : andThen (.refused x) k = .refused x := rfl

theorem andThen_eq_next {r : Result} {k : State → Result} {s' : State} :
    andThen r k = .next s' ↔ ∃ s, r = .next s ∧ k s = .next s' := by
  cases r <;> simp

theorem andThen_eq_fault {r : Result} {k : State → Result} {f : Fault} :
    andThen r k = .fault f ↔ r = .fault f ∨ ∃ s, r = .next s ∧ k s = .fault f := by
  cases r <;> simp

/-! ### Slots -/

theorem slotRead_ok {i : Nat} {s : State} {v : Nat} :
    slotRead i s = .ok v ↔ i < s.par.n ∧ Memory.read s.slots i = some v := by
  unfold slotRead
  by_cases h : i < s.par.n
  · cases hm : Memory.read s.slots i <;> simp [h]
  · simp [h]

theorem slotWrite_in_range {i : Nat} {v : Nat} {s : State} (h : i < s.par.n) :
    slotWrite i v s = .next { s with slots := Memory.write s.slots i v } := by
  simp [slotWrite, h]

theorem slotWrite_eq_next {i : Nat} {v : Nat} {s s' : State} :
    slotWrite i v s = .next s' ↔ i < s.par.n ∧ s' = { s with slots := Memory.write s.slots i v } := by
  unfold slotWrite
  split <;> simp_all [eq_comm]

theorem slotWrite_keeps_wf {i : Nat} {v : Nat} {s s' : State} (h : slotWrite i v s = .next s')
    (hw : Memory.wf s.slots = true) : Memory.wf s'.slots = true := by
  obtain ⟨-, rfl⟩ := slotWrite_eq_next.1 h
  exact Memory.write_wf _ _ _ hw

/-! ### The scheduler -/

/-- A push at a cursor in range always lands (R121). -/
theorem push_in_range {t : Nat} {s : State} (h : s.wr < s.par.n) :
    push t s = .next (advanceWriter { s with slots := Memory.write s.slots s.wr t }) := by
  simp [push, slotWrite_in_range h]

theorem push_eq_next {t : Nat} {s s' : State} :
    push t s = .next s' ↔
      s.wr < s.par.n ∧ s' = advanceWriter { s with slots := Memory.write s.slots s.wr t } := by
  unfold push
  rw [andThen_eq_next]
  constructor
  · rintro ⟨s1, h1, h2⟩
    obtain ⟨hw, rfl⟩ := slotWrite_eq_next.1 h1
    cases h2
    exact ⟨hw, rfl⟩
  · rintro ⟨hw, rfl⟩
    exact ⟨_, slotWrite_in_range hw, rfl⟩

theorem push_keeps_wf {t : Nat} {s s' : State} (h : push t s = .next s')
    (hw : Memory.wf s.slots = true) : Memory.wf s'.slots = true := by
  obtain ⟨-, rfl⟩ := push_eq_next.1 h
  simpa using Memory.write_wf _ _ _ hw

/-- An enqueue that answers a next state is one push, or two of the same time when the first left the
writer at the wrong parity (R120, R122). -/
theorem enqueue_eq_next {role : Role} {t : Nat} {s s' : State} (h : enqueue role t s = .next s') :
    ∃ s1, push t s = .next s1 ∧
      ((needsCompensation role s1.wr = false ∧ s' = s1) ∨
        (needsCompensation role s1.wr = true ∧ push t s1 = .next s')) := by
  obtain ⟨s1, h1, h2⟩ := andThen_eq_next.1 h
  refine ⟨s1, h1, ?_⟩
  cases hc : needsCompensation role s1.wr
  · simp only [hc, Bool.false_eq_true, if_false] at h2
    cases h2
    exact .inl ⟨rfl, rfl⟩
  · simp only [hc, if_true] at h2
    exact .inr ⟨rfl, h2⟩

theorem enqueue_keeps_wf {role : Role} {t : Nat} {s s' : State} (h : enqueue role t s = .next s')
    (hw : Memory.wf s.slots = true) : Memory.wf s'.slots = true := by
  obtain ⟨s1, h1, ⟨-, rfl⟩ | ⟨-, h2⟩⟩ := enqueue_eq_next h
  · exact push_keeps_wf h1 hw
  · exact push_keeps_wf h2 (push_keeps_wf h1 hw)

/-- The loop of `ADV` writes the reader and nothing else (R124). -/
theorem advanceLoop_frame {fuel : Nat} {t : Nat} {s s' : State} (h : advanceLoop fuel t s = .next s') :
    s' = { s with rd := s'.rd } := by
  induction fuel generalizing s with
  | zero => simp [advanceLoop] at h
  | succ k ih =>
    simp only [advanceLoop] at h
    split at h
    · cases h; rfl
    · split at h
      · cases h
      · split at h
        · have := ih h
          rw [this]
        · cases h; rfl

/-! ### The dispatcher -/

/-- A micro-step writes the reader, the output, the phase and the locals, and nothing else
(R163 to R169). -/
theorem microStep_frame {s s' : State} (h : microStep s = .next s') :
    s' = { s with rd := s'.rd, out := s'.out, dph := s'.dph, rL := s'.rL, tL := s'.tL, pL := s'.pL } := by
  unfold microStep at h
  split at h
  · simp only [stepIdle] at h
    split at h <;> (cases h; rfl)
  · simp only [stepSnap] at h
    split at h <;> (cases h; rfl)
  · simp only [stepTime] at h
    cases h; rfl
  · simp only [stepTest] at h
    split at h
    · cases h; rfl
    · split at h
      · cases h
      · split at h
        · cases h
        · cases h; rfl
  · simp only [stepCommit] at h
    split at h
    · cases h
    · cases h; rfl
  · simp only [stepPar] at h
    cases h; rfl
  · simp only [stepDrive] at h
    split at h
    · cases h
    · cases h; rfl

theorem iterate_frame {fuel : Nat} {s s' : State} (h : iterate fuel s = .next s') :
    s' = { s with rd := s'.rd, out := s'.out, dph := s'.dph, rL := s'.rL, tL := s'.tL, pL := s'.pL } := by
  induction fuel generalizing s with
  | zero => simp [iterate] at h
  | succ k ih =>
    obtain ⟨s1, h1, h2⟩ := andThen_eq_next.1 h
    have f1 := microStep_frame h1
    split at h2
    · cases h2; exact f1
    · rw [ih h2, f1]

/-- Micro-steps run until the phase is IDLE again (R161). -/
theorem iterate_ends_idle {fuel : Nat} {s s' : State} (h : iterate fuel s = .next s') : s'.dph = .idle := by
  induction fuel generalizing s with
  | zero => simp [iterate] at h
  | succ k ih =>
    obtain ⟨s1, -, h2⟩ := andThen_eq_next.1 h
    split at h2
    · rename_i hd; cases h2; exact hd
    · exact ih h2

/-! ### Received bytes -/

theorem serveByte_ignored {c : ConfigByte} {s : State} (h : flagLoaded s.par c = none) :
    serveByte c s = s := by simp [serveByte, h]

theorem serveByte_loaded {c : ConfigByte} {f : Flag} {s : State} (h : flagLoaded s.par c = some f) :
    serveByte c s = configure f s := by simp [serveByte, h]

/-! ### Arithmetic -/

theorem inc_lt {n : Nat} (h : 0 < n) (i : Nat) : inc n i < n := Nat.mod_lt _ h

theorem addW_lt (w : Nat) (a b : Nat) : addW w a b < 2 ^ w := Nat.mod_lt _ (Nat.two_pow_pos w)

theorem subW_lt (w : Nat) (a b : Nat) : subW w a b < 2 ^ w := Nat.mod_lt _ (Nat.two_pow_pos w)

/-- `subW` is the remainder of the integer difference, as R6 defines `−_W`. -/
theorem subW_eq_emod (w : Nat) (a b : Nat) : (subW w a b : Int) = ((a : Int) - b) % 2 ^ w := by
  have hb : b % 2 ^ w ≤ 2 ^ w := (Nat.mod_lt _ (Nat.two_pow_pos w)).le
  have hd : (b : Int) = 2 ^ w * ((b / 2 ^ w : Nat) : Int) + ((b % 2 ^ w : Nat) : Int) := by
    exact_mod_cast (Nat.div_add_mod b (2 ^ w)).symm
  unfold subW
  push_cast [Nat.cast_sub hb]
  rw [show (a : Int) - b = (a + (2 ^ w - ((b : Int) % 2 ^ w))) + 2 ^ w * (-(b / 2 ^ w : Int) - 1) by
    have := Int.mul_ediv_add_emod (b : Int) (2 ^ w)
    linear_combination (-1 : Int) * this.symm]
  exact (Int.add_mul_emod_self_left _ _ _).symm

/-- A parameter set is well formed exactly when the eight conditions of R5 hold. -/
theorem paramsOk_conditions {p : Params} (h : paramsOk p = true) :
    p.n % 2 = 0 ∧ 2 ≤ p.n ∧ 14 ≤ p.w ∧ 1 ≤ p.delayFactor ∧ 15 * p.delayFactor < 2 ^ (p.w - 1) ∧
      8 * 1000 < 2 ^ (p.w - 1) ∧ 8 * p.exp0Exponent < 2 ^ (p.w - 1) ∧ 1 ≤ p.ovfWidth := by
  simpa [paramsOk, and_assoc] using h

end Sys2Proof.Machine
end

