-- ==== Sys2Proof/Laws/PerInstr.lean ====
section
/-! SUPPORT. Statements about every instruction as syntax, one lemma per constructor. -/

/-- The operation field of an instruction's word is CFG's, `100`, exactly when the instruction carries a
configuration byte, and the word is then the one R180 gives for that byte (30_encoding.md R71, R73). -/
def Sys2Proof.Laws.CfgWord.Statement (i : Sys2Proof.Instr) : Prop :=
  (Sys2Proof.opField (Sys2Proof.encode i) = 0b100#3 ↔ (Sys2Proof.configByteOf i).isSome = true) ∧
    ∀ c, Sys2Proof.configByteOf i = some c → Sys2Proof.encode i = Sys2Proof.configWord c

namespace Sys2Proof.Laws.CfgWord

open Sys2Proof

/-- The operation field of three bits before eight is the three bits. -/
theorem opField_append (m : BitVec 3) (d : BitVec 8) : opField (m ++ d) = m := by
  ext i hi
  have h : (m ++ d).getLsbD (8 + i) = m.getLsbD i := by rw [BitVec.getLsbD_append]; simp
  rw [opField, BitVec.getElem_extractLsb']
  exact h.trans (BitVec.getLsbD_eq_getElem hi)

/-- An instruction without a configuration byte meets the statement when its operation is not CFG's. -/
theorem statement_of_none {i : Instr} (hc : configByteOf i = none) (ho : opField (encode i) ≠ 0b100#3) :
    Statement i :=
  ⟨by simp [hc, ho], fun c h => by simp [hc] at h⟩

/-- An instruction with a configuration byte meets it when its word is that byte's. -/
theorem statement_of_some {i : Instr} {c : ConfigByte} (hc : configByteOf i = some c)
    (hw : encode i = configWord c) : Statement i := by
  refine ⟨?_, fun c' h => ?_⟩
  · rw [hw, hc]
    exact ⟨fun _ => rfl, fun _ => opField_append 0b100#3 c⟩
  · rw [hc] at h
    cases h
    exact hw

theorem nop : Statement .nop := statement_of_none rfl (by decide)
theorem poll : Statement .poll := statement_of_none rfl (by decide)
theorem rise : Statement .rise := statement_of_none rfl (by decide)
theorem fall : Statement .fall := statement_of_none rfl (by decide)
theorem pstep : Statement .pstep := statement_of_none rfl (by decide)

theorem cfgIgn (c : BitVec 5) : Statement (.cfgIgn c) :=
  statement_of_some rfl (by revert c; decide)
theorem cfgLoadLow (c : BitVec 5) : Statement (.cfgLoadLow c) :=
  statement_of_some rfl (by revert c; decide)
theorem cfgLoadHigh (c : BitVec 5) : Statement (.cfgLoadHigh c) :=
  statement_of_some rfl (by revert c; decide)
theorem cfgHighLow (c : BitVec 5) : Statement (.cfgHighLow c) :=
  statement_of_some rfl (by revert c; decide)
theorem cfgHighTop (c : BitVec 7) : Statement (.cfgHighTop c) :=
  statement_of_some rfl (by revert c; decide)

/-- The operation field of a reserved word is 110 or 111, never 100. -/
theorem reservedOp (x : BitVec 9) : Statement (.reservedOp x) := by
  refine statement_of_none rfl fun h => ?_
  have h1 : (0b11#2 ++ x).getLsbD 9 = true := by rw [BitVec.getLsbD_append]; simp
  have h2 := congrArg (fun v => v.getLsbD 1) h
  rw [opField, BitVec.getLsbD_extractLsb'] at h2
  exact absurd (h1.symm.trans h2) (by decide)

theorem nonzeroNop (d : BitVec 8) : Statement (.nonzeroNop d) :=
  statement_of_none rfl ((opField_append 0b000#3 d).trans_ne (by decide))
theorem nonzeroPoll (d : BitVec 8) : Statement (.nonzeroPoll d) :=
  statement_of_none rfl ((opField_append 0b001#3 d).trans_ne (by decide))
theorem nonzeroRise (d : BitVec 8) : Statement (.nonzeroRise d) :=
  statement_of_none rfl ((opField_append 0b010#3 d).trans_ne (by decide))
theorem nonzeroFall (d : BitVec 8) : Statement (.nonzeroFall d) :=
  statement_of_none rfl ((opField_append 0b011#3 d).trans_ne (by decide))
theorem nonzeroPstep (d : BitVec 8) : Statement (.nonzeroPstep d) :=
  statement_of_none rfl ((opField_append 0b101#3 d).trans_ne (by decide))

end Sys2Proof.Laws.CfgWord
end

