-- ==== Sys2Proof/Laws/Step.lean ====
section
/-! SUPPORT. What a command, an event and a step can answer, said once. -/

namespace Sys2Proof.Machine

/-! ### Frames of the commands -/

theorem push_frame {t : Nat} {s s' : State} (h : push t s = .next s') :
    s' = { s with wr := s'.wr, slots := s'.slots, ovfCount := s'.ovfCount } := by
  obtain ⟨-, rfl⟩ := push_eq_next.1 h
  unfold advanceWriter countOverflow
  split <;> rfl

/-- An enqueue writes the writer, the slots and the overflow count, and nothing else (R120, R121). -/
theorem enqueue_frame {role : Role} {t : Nat} {s s' : State} (h : enqueue role t s = .next s') :
    s' = { s with wr := s'.wr, slots := s'.slots, ovfCount := s'.ovfCount } := by
  obtain ⟨s1, h1, ⟨-, rfl⟩ | ⟨-, h2⟩⟩ := enqueue_eq_next h
  · exact push_frame h1
  · rw [push_frame h2, push_frame h1]

/-- An edge handler in its three modes (R142). -/
theorem edgeHandler_cases {role : Role} {level : Bool} {s s' : State}
    (h : edgeHandler role level s = .next s') :
    (modeOf s = .disabled ∧ s' = s) ∨ (modeOf s = .direct ∧ s' = driveOut level s) ∨
      (modeOf s = .delayed ∧ enqueue role (target s.par.w (nowOf s) s.lat) s = .next s') := by
  unfold edgeHandler at h
  split at h <;> rename_i hm
  · cases h; exact .inl ⟨hm, rfl⟩
  · exact .inr (.inr ⟨hm, h⟩)
  · cases h; exact .inr (.inl ⟨hm, rfl⟩)

theorem pollAtomic_frame {s s' : State} (h : pollAtomic s = .next s') :
    s' = { s with rd := s'.rd, out := s'.out } := by
  unfold pollAtomic at h
  split at h
  · split at h
    · cases h; rfl
    · obtain ⟨s1, h1, h2⟩ := andThen_eq_next.1 h
      cases h2
      rw [advanceLoop_frame h1]
      rfl
  · cases h; rfl

/-- POLL writes the reader, the output and the dispatcher's own state, and nothing else (R160, R161). -/
theorem execPoll_frame {s s' : State} (h : execPoll s = .next s') :
    s' = { s with rd := s'.rd, out := s'.out, dph := s'.dph, rL := s'.rL, tL := s'.tL, pL := s'.pL } := by
  unfold execPoll at h
  split at h
  · rw [pollAtomic_frame h]
  · exact iterate_frame h

theorem execPstep_eq_next {s s' : State} :
    execPstep s = .next s' ↔ s.par.pollMode = .interleaved ∧ microStep s = .next s' := by
  unfold execPstep
  split <;> rename_i hm <;> simp [hm]

/-! ### Events and steps -/

theorem takeStimulus_eq_next {st : Stimulus} {s s' : State} :
    takeStimulus st s = .next s' ↔
      paramsOk s.par = true ∧ runEvent st.event (advanceClock st.elapsed s) = .next s' := by
  unfold takeStimulus
  split <;> simp_all

/-- A planned step is the first entry of the schedule. -/
theorem step_planned {s : State} {st : Stimulus} {rest : List Stimulus} (h : s.schedule = st :: rest) :
    step s = takeStimulus st { s with schedule := rest } := by
  simp [step, nextStimulus, h]

/-- With nothing planned the step is a free draw. -/
theorem step_drawn {s : State} (h : s.schedule = []) :
    step s = takeStimulus (Config.envDraw s.draws) { s with draws := s.draws + 1 } := by
  simp [step, nextStimulus, h]

/-- A service that has a next state clears its source and is its handler (R204). -/
theorem service_cases {src : Source} {s s' : State} (h : service src s = .next s') :
    mayService s src = true ∧
      ((src = .rise ∧ execRise (acceptSource .rise s) = .next s') ∨
        (src = .fall ∧ execFall (acceptSource .fall s) = .next s') ∨
        (src = .rx ∧ ∃ c cs, s.serq = c :: cs ∧ s' = serveByte c (acceptSource .rx s))) := by
  unfold service at h
  split at h
  · rename_i hm
    refine ⟨hm, ?_⟩
    cases src with
    | rise => exact .inl ⟨rfl, h⟩
    | fall => exact .inr (.inl ⟨rfl, h⟩)
    | rx =>
      refine .inr (.inr ⟨rfl, ?_⟩)
      simp only at h
      split at h
      · cases h
      · rename_i c cs hc
        cases h
        exact ⟨c, cs, hc, rfl⟩
  · cases h

end Sys2Proof.Machine
end

