-- ==== Sys2Proof/Laws/Safety.lean ====
section
/-! SUPPORT. The small lemmas of the views in Safety, so that no proof unfolds them. -/

namespace Sys2Proof.Safety

open Sys2Proof.Machine

@[simp] theorem runEvents_nil (s : State) : runEvents [] s = .next s := rfl

@[simp] theorem runEvents_cons (e : Event) (es : List Event) (s : State) :
    runEvents (e :: es) s = andThen (runEvent e s) (runEvents es) := rfl

/-- Outside delayed mode an edge writes nothing (R142). -/
theorem edgeEntries_not_delayed {role : Role} {s : State} (h : s.en = false ∨ s.hd = false) :
    edgeEntries role s = [] := by
  rcases h with h | h <;> simp [edgeEntries, h]

/-- In delayed mode one entry at the role's parity, two otherwise (R122). -/
theorem edgeEntries_delayed {role : Role} {s : State} (he : s.en = true) (hh : s.hd = true) :
    edgeEntries role s =
      if s.wr % 2 = roleNumber role then [(nowOf s + s.lat) % 2 ^ s.par.w]
      else [(nowOf s + s.lat) % 2 ^ s.par.w, (nowOf s + s.lat) % 2 ^ s.par.w] := by
  simp [edgeEntries, he, hh]

/-- Only an edge handler pushes (R121). -/
theorem entriesPushed_cases (e : Event) (s : State) :
    entriesPushed e s = [] ∨ entriesPushed e s = edgeEntries .on s ∨ entriesPushed e s = edgeEntries .off s := by
  unfold entriesPushed
  repeat' split
  all_goals first | exact .inl rfl | exact .inr (.inl rfl) | exact .inr (.inr rfl)

/-- Whether an event loads a configuration does not depend on the clock (R188). -/
@[simp] theorem loadsConfig_advanceClock (e : Event) (dt : Nat) (s : State) :
    loadsConfig e (advanceClock dt s) = loadsConfig e s := rfl

/-- The visible entries do not depend on the clock. -/
@[simp] theorem visible_advanceClock (dt : Nat) (s : State) : visible (advanceClock dt s) = visible s := rfl

end Sys2Proof.Safety
end

