-- ==== Sys2Proof/Machine/Assembler.lean ====
section
/-! DEFINITION. The program syntax of 30_encoding.md R79 and its pseudo-instructions (R80): a line
`[@<t>] <mnemonic> [<operand>] [; comment]` becomes a planned step of the schedule. Lines are lists of
characters. -/

namespace Sys2Proof.Machine

/-- Cut a line into its lower-case words, at blanks and commas; a `;` starts a comment. -/
def lineWords : List Char → List (List Char)
  | [] => [[]]
  | c :: cs =>
    if c = ';' then [[]]
    else if c = ' ' ∨ c = ',' ∨ c = '\t' then [] :: lineWords cs
    else match lineWords cs with
      | [] => [[c.toLower]]
      | word :: rest => (c.toLower :: word) :: rest

/-- The words of a line that are not empty. -/
def tokens (line : List Char) : List (List Char) := (lineWords line).filter fun t => !t.isEmpty

/-- A digit's value in base 16. -/
def digitValue (c : Char) : Option Nat :=
  let v := c.toNat
  if 48 ≤ v ∧ v ≤ 57 then some (v - 48)
  else if 97 ≤ v ∧ v ≤ 102 then some (v - 87)
  else none

/-- The value of a list of digits after `acc`. -/
def digitsValue (base : Nat) (acc : Nat) : List Char → Option Nat
  | [] => some acc
  | c :: cs => match digitValue c with
    | none => none
    | some d => if d < base then digitsValue base (acc * base + d) cs else none

/-- A decimal or `0x` hexadecimal number (R79). -/
def numberValue : List Char → Option Nat
  | [] => none
  | '0' :: 'x' :: d :: ds => digitsValue 16 0 (d :: ds)
  | d :: ds => digitsValue 10 0 (d :: ds)

/-- A number below a bound. -/
def operandValue (bound : Nat) (t : List Char) : Option Nat :=
  match numberValue t with
  | none => none
  | some v => if v < bound then some v else none

/-- The CFG word of a pseudo-instruction whose operands are in range (R80). -/
def pseudoWord (p : Pseudo) : Option CmdWord :=
  if p.wf then some (configWord (expandPseudo p)) else none

/-- The word of a mnemonic and its operands (R79, R80). Only CFG, SETF, LIN and EXPO take operands. -/
def commandWord : List (List Char) → Option CmdWord
  | [] => none
  | m :: ops =>
    if m = ['n', 'o', 'p'] then (if ops = [] then some (encode .nop) else none)
    else if m = ['p', 'o', 'l', 'l'] then (if ops = [] then some (encode .poll) else none)
    else if m = ['p', 's', 't', 'e', 'p'] then (if ops = [] then some (encode .pstep) else none)
    else if m = ['r', 'i', 's', 'e'] then (if ops = [] then some (encode .rise) else none)
    else if m = ['f', 'a', 'l', 'l'] then (if ops = [] then some (encode .fall) else none)
    else if m = ['d', 'i', 's', 'a', 'b', 'l', 'e'] then (if ops = [] then pseudoWord .disable else none)
    else if m = ['d', 'i', 'r', 'e', 'c', 't'] then (if ops = [] then pseudoWord .direct else none)
    else match ops with
      | [a] =>
        if m = ['c', 'f', 'g'] then (operandValue 256 a).map fun v => configWord (BitVec.ofNat 8 v)
        else if m = ['s', 'e', 't', 'f'] then (operandValue 64 a).bind fun v => pseudoWord (.setf (BitVec.ofNat 6 v))
        else if m = ['l', 'i', 'n'] then (operandValue 16 a).bind fun v => pseudoWord (.lin (BitVec.ofNat 4 v))
        else none
      | [a, b] =>
        if m = ['e', 'x', 'p', 'o'] then
          (operandValue 4 a).bind fun e => (operandValue 4 b).bind fun r =>
            pseudoWord (.expo (BitVec.ofNat 2 e) (BitVec.ofNat 2 r))
        else none
      | _ => none

/-- One line at the time `t` of the line before: the planned step, if the line holds a command, and the
time it runs at. `@<t>` names a `W`-bit clock value, reached by the least advance (log 17, DEDUCED, safe). -/
def assembleLine (w t : Nat) (line : List Char) : Option (Option Stimulus × Nat) :=
  match tokens line with
  | [] => some (none, t)
  | ('@' :: digits) :: rest => do
    let v ← operandValue (2 ^ w) digits
    let word ← commandWord rest
    let elapsed := subW w v (t % 2 ^ w)
    return (some ⟨elapsed, .command word⟩, t + elapsed)
  | ts => do
    let word ← commandWord ts
    return (some ⟨0, .command word⟩, t)

/-- A program, from the clock value `t`: the schedule its lines plan, or nothing when a line is not of
the syntax. -/
def assemble (w t : Nat) : List (List Char) → Option (List Stimulus)
  | [] => some []
  | line :: lines => do
    let (st, t') ← assembleLine w t line
    let rest ← assemble w t' lines
    return match st with
      | none => rest
      | some x => x :: rest

end Sys2Proof.Machine
end

