-- ==== Sys2Proof/Tests/Slice0.lean ====
section
/-! SUPPORT. Tests of the model on the spec's own vectors (95_test_vectors.md), each one step on a small
state, and for every statement with hypotheses a witness that meets them. -/

namespace Sys2Proof.Tests

open Sys2Proof.Machine Sys2Proof.Safety

/-! ### Small states -/

/-- The parameters of the tests at `N = 4`. -/
def par4 (mode : PollMode) : Params := { Params.standard 4 with pollMode := mode }

/-- A delayed-mode state with `LAT = 20`, two entries 50 and 60 in slots 0 and 1 and a clock value, as in
V-ADV and V-DISP but for `N` (DECODE of flag `0x21`). -/
def queued (mode : PollMode) (now : Nat) : State :=
  { State.powerOn (par4 mode) now with
    en := true, hd := true, lat := 20, slots := [(0, 50), (1, 60)], rd := 0, wr := 2 }

/-- An empty delayed-mode queue at a writer position. -/
def emptyAt (wr : Nat) : State :=
  { State.powerOn (Params.standard 8) 0 with en := true, hd := true, lat := 20, rd := 0, wr := wr }

/-! ### The witnesses' invariant -/

/-- The invariant, as a check that runs, given the flag the configuration was decoded from. -/
def invCheck (s : State) (f : Flag) : Bool :=
  paramsOk s.par && decide (s.rd < s.par.n) && decide (s.wr < s.par.n) && Memory.wf s.slots &&
    Memory.bounded s.par.n s.par.w s.slots && decide (decodeFlag s.par f = ⟨s.en, s.hd, s.lat⟩) &&
    decide (s.ovfCount < 2 ^ s.par.ovfWidth) && decide (s.par.hasOvfCounter = false → s.ovfCount = 0) &&
    decide (s.par.pollMode = .atomic → s.dph = .idle) && localsReady s && below s.par.n s.rL &&
    below (2 ^ s.par.w) s.tL

theorem inv_of_check {s : State} {f : Flag} (h : invCheck s f = true) : Inv s := by
  simp only [invCheck, Bool.and_eq_true, decide_eq_true_eq] at h
  obtain ⟨⟨⟨⟨⟨⟨⟨⟨⟨⟨⟨h1, h2⟩, h3⟩, h4⟩, h5⟩, h6⟩, h7⟩, h8⟩, h9⟩, h10⟩, h11⟩, h12⟩ := h
  exact ⟨h1, h2, h3, h4, h5, ⟨f, h6⟩, h7, h8, h9, h10, h11, h12⟩

theorem inv_queued_atomic : Inv (queued .atomic 50) := inv_of_check (f := 0x21#6) (by decide)
theorem inv_queued_interleaved : Inv (queued .interleaved 50) := inv_of_check (f := 0x21#6) (by decide)

/-! ### Well-formedness smoke: one ill-formed term for each check -/

theorem test_wf_refuses_nop_with_zero_data : (Instr.nonzeroNop 0#8).wf = false := by decide
theorem test_wf_refuses_poll_with_zero_data : (Instr.nonzeroPoll 0#8).wf = false := by decide
theorem test_wf_refuses_rise_with_zero_data : (Instr.nonzeroRise 0#8).wf = false := by decide
theorem test_wf_refuses_fall_with_zero_data : (Instr.nonzeroFall 0#8).wf = false := by decide
theorem test_wf_refuses_pstep_with_zero_data : (Instr.nonzeroPstep 0#8).wf = false := by decide
theorem test_wf_refuses_lin_zero : (Pseudo.lin 0#4).wf = false := by decide
theorem test_wf_refuses_expo_zero : (Pseudo.expo 0#2 0#2).wf = false := by decide
/-- V-DEC-CMD, the parameter refusals of code 5 (R5). -/
theorem test_params_refused :
    [paramsOk (Params.standard 7), paramsOk { Params.standard 8 with w := 13 },
      paramsOk { Params.standard 8 with w := 16 }, paramsOk { Params.standard 8 with delayFactor := 0 }] =
      [false, false, true, false] := by decide

/-! ### Decoding: each row's word written out from the table's encoding (R71, R73, R191, R192) -/

theorem test_decode_nop : decodeTableWord 16 0b00000000000 = some .nop := by decide
theorem test_decode_poll : decodeTableWord 16 0b00100000000 = some .poll := by decide
theorem test_decode_rise : decodeTableWord 16 0b01000000000 = some .rise := by decide
theorem test_decode_fall : decodeTableWord 16 0b01100000000 = some .fall := by decide
theorem test_decode_cfgIgn : decodeTableWord 16 0b10000011111 = some (.cfgIgn 0b11111#5) := by decide
theorem test_decode_cfgLoadLow : decodeTableWord 16 0b10000111111 = some (.cfgLoadLow 0b11111#5) := by decide
theorem test_decode_cfgLoadHigh : decodeTableWord 16 0b10001000101 = some (.cfgLoadHigh 0b00101#5) := by decide
theorem test_decode_cfgHighLow : decodeTableWord 16 0b10001100001 = some (.cfgHighLow 0b00001#5) := by decide
theorem test_decode_cfgHighTop : decodeTableWord 16 0b10011111110 = some (.cfgHighTop 0b1111110#7) := by decide
theorem test_decode_pstep : decodeTableWord 16 0b10100000000 = some .pstep := by decide
theorem test_decode_reserved : decodeTableWord 16 0b11100000001 = some (.reservedOp 0b100000001#9) := by decide
theorem test_decode_nonzeroNop : decodeTableWord 16 0b00010000001 = some (.nonzeroNop 0b10000001#8) := by decide
theorem test_decode_nonzeroPoll : decodeTableWord 16 0b00111111111 = some (.nonzeroPoll 0b11111111#8) := by decide
theorem test_decode_nonzeroRise : decodeTableWord 16 0b01000000010 = some (.nonzeroRise 0b00000010#8) := by decide
theorem test_decode_nonzeroFall : decodeTableWord 16 0b01101000000 = some (.nonzeroFall 0b01000000#8) := by decide
theorem test_decode_nonzeroPstep : decodeTableWord 16 0b10100000001 = some (.nonzeroPstep 0b00000001#8) := by decide
theorem test_decode_no_twelfth_bit : decodeTableWord 16 0b100000000000 = none := by decide
/-- R80: `LIN 5` is byte `0x45`, `EXPO 3, 3` is `0x5F`, `SETF 63` is `0x5F`, `DISABLE` is `0x20`. -/
theorem test_pseudo_expansions :
    [Pseudo.lin 5#4, .expo 3#2 3#2, .setf 63#6, .disable, .direct].map expandPseudo =
      [0x45#8, 0x5F#8, 0x5F#8, 0x20#8, 0x40#8] := by decide
/-- R79: `@10 CFG 0x45 ; x` from time 0 plans word `0x445` after 10 ms. -/
theorem test_assemble_line :
    assemble 32 0 [['@', '1', '0', ' ', 'C', 'F', 'G', ' ', '0', 'x', '4', '5', ' ', ';', ' ', 'x']] =
      some [⟨10, .command 0x445#11⟩] := by decide
/-- P4: at `W = 16` the clock value `0x0010` after time `0xFFF0` is 32 ms later. -/
theorem test_assemble_clock_wrap :
    assemble 16 0xFFF0 [['@', '0', 'x', '0', '0', '1', '0', ' ', 'p', 'o', 'l', 'l']] =
      some [⟨32, .command 0x100#11⟩] := by decide

/-! ### Arithmetic and decoder vectors -/

/-- V-ARITH rows 4 to 8 and 10. -/
theorem test_due_across_wrap :
    [due 32 0xFFFFFFF0 0x10, due 32 0x10 0xFFFFFFF0, due 32 0 0x7FFFFFFF, due 32 0 0x80000000,
      due 16 0x7C 0xFFF0, due 16 0 0x8000] = [true, false, true, false, false, false] := by decide
/-- V-ARITH rows 14 and 15. -/
theorem test_target_wraps : target 32 0xFFFFFFF0 0x20 = 0x10 ∧ target 16 0xFF50 300 = 0x7C := by decide
/-- V-DEC rows 6, 12, 16. -/
theorem test_decode_flag_vectors :
    decodeFlag { Params.standard 8 with exp0Exponent := 0 } 0x11#6 = ⟨false, true, 0⟩ ∧
    decodeFlag { Params.standard 8 with delayFactor := 10 } 0x25#6 = ⟨true, true, 50⟩ ∧
    decodeFlag (Params.standard 8) 0x3B#6 = ⟨true, true, 800⟩ := by decide
/-- V-BYTE rows 2, 7, 10, 14. -/
theorem test_flag_loaded_vectors :
    [0x1F#8, 0x5F#8, 0x80#8, 0xFF#8].map (flagLoaded (Params.standard 8)) =
      [none, some 0x3F#6, some 0x20#6, some 0x1F#6] := by decide

/-! ### One step of each command -/

/-- R190: NOP between two steps of an iteration changes nothing. -/
theorem test_nop : nextOf (exec .nop (queued .interleaved 50)) = some (queued .interleaved 50) := by decide
/-- V-ADV row 2. -/
theorem test_poll_atomic_pops_due :
    (nextOf (exec .poll (queued .atomic 50))).map (fun s => (s.rd, s.out)) = some (1, true) := by decide
/-- V-DISP: one POLL at 50 performs the eight micro-steps. -/
theorem test_poll_interleaved_iteration :
    (nextOf (exec .poll (queued .interleaved 50))).map (fun s => (s.rd, s.out, s.dph, s.pL)) =
      some (1, true, .idle, some true) := by decide
/-- V-ENQ row 2: RISE at an odd writer writes two slots. -/
theorem test_rise_compensates :
    (nextOf (exec .rise (emptyAt 1))).map (fun s => (s.wr, s.slots)) = some (3, [(1, 20), (2, 20)]) := by decide
/-- V-ENQ row 7: the compensation write wraps to slot 0. -/
theorem test_rise_wraps :
    (nextOf (exec .rise (emptyAt 7))).map (fun s => (s.wr, s.slots)) = some (1, [(0, 20), (7, 20)]) := by decide
/-- V-ENQ row 8: FALL at writer 7 writes one slot and wraps the writer. -/
theorem test_fall_wraps_writer :
    (nextOf (exec .fall (emptyAt 7))).map (fun s => (s.wr, s.slots)) = some (0, [(7, 20)]) := by decide
/-- V-EDGE row 5: FALL in direct mode deasserts. -/
theorem test_fall_direct :
    (nextOf (exec .fall { emptyAt 0 with hd := false, lat := 0, out := true })).map (fun s => (s.out, s.wr)) =
      some (false, 0) := by decide
/-- V-CFG row 2. -/
theorem test_cfgIgn : nextOf (exec (.cfgIgn 0x1F#5) (queued .atomic 50)) = some (queued .atomic 50) := by decide
/-- V-CFG row 3: the slots stay, stale. -/
theorem test_cfgLoadLow :
    (nextOf (exec (.cfgLoadLow 0#5) (queued .atomic 50))).map (fun s => (s.en, s.wr, s.slots)) =
      some (false, 0, [(0, 50), (1, 60)]) := by decide
/-- V-CFG row 5. -/
theorem test_cfgLoadHigh :
    (nextOf (exec (.cfgLoadHigh 0x1F#5) (queued .atomic 50))).map (fun s => (s.en, s.hd, s.lat)) =
      some (true, true, 8000) := by decide
/-- V-CFG row 7: under IGNORE the byte `0x60` changes nothing. -/
theorem test_cfgHighLow_ignore :
    let s := { queued .atomic 50 with par := { par4 .atomic with highPolicy := .ignore } }
    nextOf (exec (.cfgHighLow 0#5) s) = some s := by decide
/-- V-CFG row 8. -/
theorem test_cfgHighTop_mask :
    (nextOf (exec (.cfgHighTop 0x7F#7) (queued .atomic 50))).map (fun s => (s.en, s.hd, s.lat, s.out)) =
      some (false, true, 8000, false) := by decide
/-- V-DISP row 4. -/
theorem test_pstep_test :
    (nextOf (exec .pstep { queued .interleaved 50 with dph := .test, tL := some 50 })).map
      (fun s => (s.dph, s.rL)) = some (.commit, some 0) := by decide
/-- P5: the second TEST of the last POLL reads the unwritten slot 2. -/
theorem test_pstep_fault_4 :
    faultOf (exec .pstep { queued .interleaved 50 with dph := .test, tL := some 21, rd := 2, wr := 0 }) =
      some (.unwrittenSlotRead 2) := by decide
/-- V-DEC-CMD rows 13, 14 and 17: the refusals record the word. -/
theorem test_refusals :
    refusalOf (exec (decode 0x500#11) (queued .atomic 50)) = some (.pstepInAtomic 0x500#11) ∧
    refusalOf (exec (decode 0x501#11) (queued .atomic 50)) = some (.nonzeroData 0x501#11) ∧
    refusalOf (exec (decode 0x6FF#11) (queued .atomic 50)) = some (.reservedOp 0x6FF#11) := by decide
/-- V-OVF row 1: the push that finds `N − 1` entries counts one overflow and the queue reads empty. -/
theorem test_overflow_counts :
    let s := { queued .atomic 50 with par := { par4 .atomic with hasOvfCounter := true }, wr := 3 }
    (nextOf (exec .fall s)).map (fun t => (t.rd, t.wr, t.ovfCount, occupancy t)) = some (0, 0, 1, 0) := by decide
/-- V-OVF row 2: the compensation push is the one that overflows. -/
theorem test_compensation_overflow_counts :
    let s := { queued .atomic 2 with
      par := { par4 .atomic with hasOvfCounter := true }, slots := [(0, 20), (1, 21)] }
    (nextOf (exec .fall s)).map (fun t => (t.slots, t.wr, t.ovfCount)) =
      some ([(0, 20), (1, 21), (2, 22), (3, 22)], 0, 1) := by decide
/-- V-INT row 1: a second rising edge before service is lost. -/
theorem test_edge_coalesced :
    nextOf (runEvent .edgeRise { emptyAt 0 with pendRise := true }) = some { emptyAt 0 with pendRise := true } := by
  decide
/-- R231: an edge pending in disabled mode is still pending after the enabling CFG is serviced. -/
theorem test_pending_edge_outlives_enabling_cfg :
    (nextOf (runEvent (.service .rx) { State.reset with pendRise := true, serq := [0x41#8] })).map
      (fun s => (s.en, s.pendRise, s.serq)) = some (true, true, []) := by decide
/-- V-RST row 4: power-on reset abandons the iteration in progress. -/
theorem test_power_on_abandons_iteration :
    (nextOf (runEvent .powerOn { queued .interleaved 50 with dph := .commit, rL := some 0 })).map
      (fun s => (s.dph, s.rL, s.slots, s.clock)) = some (.idle, none, [], 50) := by decide
/-- V-RST row 1: the reset state with the default flag. -/
theorem test_reset_state :
    State.reset.rd = 0 ∧ State.reset.wr = 0 ∧ State.reset.slots = [] ∧ State.reset.en = false ∧
    State.reset.hd = false ∧ State.reset.lat = 0 ∧ State.reset.out = false ∧ State.reset.dph = .idle := by decide
/-- A word presented at reset is the first step: CFG `0x45` gives `LAT = 100` (V-DEC row 11). -/
theorem test_word_runs_first :
    (nextOf (step (State.reset.withFetchWord 16 0x445))).map (fun s => (s.en, s.hd, s.lat)) =
      some (true, true, 100) := by decide
/-- L1.1: the step at which `OUT` rises is observed with its time. -/
theorem test_output_change :
    (nextOf (exec .poll (queued .atomic 50))).map (outputChange (queued .atomic 50)) = some (some (50, true)) := by
  decide

/-! ### Witnesses: states and operands that meet each statement's hypotheses -/

theorem witness_DecodeOfEncode : (Instr.nonzeroPstep 1#8).wf = true ∧ Instr.nop.wf = true := by decide
theorem witness_ReservedOperationsRefused :
    opField 0x600#11 = 0b110#3 ∧ opField 0x7FF#11 = 0b111#3 := by decide
theorem witness_NonzeroDataRefused :
    [0x001#11, 0x0FF#11, 0x101#11, 0x2FF#11, 0x301#11, 0x5FF#11].all (fun w =>
      decide (opField w ∈ [0b000#3, 0b001#3, 0b010#3, 0b011#3, 0b101#3] ∧ dataField w ≠ 0#8)) = true := by decide
theorem witness_PstepRefusedInAtomicMode : (queued .atomic 50).par.pollMode = .atomic := by decide
/-- One flag for each clause: linear, exponential with `EXP = 0` and above, and the six-flag corner. -/
theorem witness_DecodeProperties :
    (0x0F#6).toNat / 16 % 2 = 0 ∧ ((0x11#6).toNat / 16 % 2 = 1 ∧ (0x11#6).toNat % 16 ≠ 0) ∧
    ((0x3F#6).toNat / 16 % 2 = 1 ∧ (0x3F#6).toNat % 16 ≠ 0) ∧ 1 ≤ (Params.standard 8).delayFactor ∧
    1 ≤ (Params.standard 8).exp0Exponent ∧ (0x33#6).toNat % 32 = 19 ∧
    { Params.standard 8 with exp0Exponent := 0 }.exp0Exponent = 0 := by decide
theorem witness_LatencyBelowHalfRange : paramsOk (Params.standard 8) = true := by decide
/-- The edges of the byte classes. -/
theorem witness_FlagOfByte :
    0x20 ≤ (0x20#8).toNat ∧ (0x5F#8).toNat ≤ 0x5F ∧ 0x20 ≤ (0x60#8).toNat ∧ 0x20 ≤ (0xFF#8).toNat := by decide
theorem witness_DueIsForwardHalfRange : 1 ≤ 16 ∧ 0 < 2 ^ 16 ∧ 0xFFFF < 2 ^ 16 ∧ 0x7FFF < 2 ^ (16 - 1) := by decide
theorem witness_CursorIncrementWraps : 7 < 8 ∧ 0 < 8 := by decide
/-- At the two ends of the window: `LAT − 1`, `LAT`, and the last millisecond that is due. -/
theorem witness_TargetDueAfterLatency :
    300 < 2 ^ (16 - 1) ∧ subW 16 299 0 < 300 + 2 ^ (16 - 1) ∧ subW 16 300 0 < 300 + 2 ^ (16 - 1) ∧
    subW 16 (299 + 2 ^ 15) 0 < 300 + 2 ^ (16 - 1) := by decide
theorem witness_SlotWriteThenRead :
    3 < (queued .atomic 50).par.n ∧ Memory.read (queued .atomic 50).slots 3 = none ∧
    0 < (queued .atomic 50).par.n ∧ Memory.read (queued .atomic 50).slots 0 = some 50 := by decide
theorem witness_EnqueueAlignsParity :
    paramsOk (emptyAt 7).par = true ∧ (emptyAt 7).wr < (emptyAt 7).par.n := by decide
/-- Room for exactly one more, and `N − 1` entries. -/
theorem witness_PushAppendsOrEmpties :
    paramsOk (queued .atomic 50).par = true ∧ (queued .atomic 50).rd < 4 ∧ (queued .atomic 50).wr < 4 ∧
    occupancy (queued .atomic 50) + 2 ≤ 4 ∧ occupancy { queued .atomic 50 with wr := 3 } = 4 - 1 := by decide
/-- None left, one left, and `N − 1` left. -/
theorem witness_OverflowKeepsNewest :
    let s := queued .atomic 50
    paramsOk s.par = true ∧ s.rd < s.par.n ∧ s.wr < s.par.n ∧
    s.par.n ≤ occupancy s + [70, 80].length ∧ (occupancy s + [70, 80].length) % s.par.n = 0 ∧
    s.par.n ≤ occupancy s + [70, 80, 90].length ∧ (occupancy s + [70, 80, 90].length) % s.par.n = 1 ∧
    s.par.n ≤ occupancy s + [70, 80, 90, 95, 99].length ∧
    (occupancy s + [70, 80, 90, 95, 99].length) % s.par.n = s.par.n - 1 := by decide
theorem witness_OverflowCountedOnce :
    let p := { par4 .atomic with hasOvfCounter := true }
    let s := { queued .atomic 50 with par := p }
    paramsOk p = true ∧ s.rd < s.par.n ∧ s.wr < s.par.n ∧ occupancy { s with wr := 3 } = s.par.n - 1 ∧
    occupancy s = s.par.n - 2 ∧ s.wr % 2 ≠ roleNumber .off ∧ s.wr % 2 = roleNumber .on := by decide
theorem witness_EdgesOutsideDelayedMode :
    State.reset.en = false ∧ { emptyAt 0 with hd := false }.en = true ∧ { emptyAt 0 with hd := false }.hd = false := by
  decide
theorem witness_RiseEnqueuesTarget :
    paramsOk (emptyAt 0).par = true ∧ (emptyAt 0).en = true ∧ (emptyAt 0).hd = true ∧
    (emptyAt 0).wr % 2 = 0 ∧ (emptyAt 7).wr % 2 = 1 ∧ (emptyAt 7).wr < (emptyAt 7).par.n ∧
    (emptyAt 7).rd < (emptyAt 7).par.n ∧ occupancy (emptyAt 7) = (emptyAt 7).par.n - 1 ∧
    occupancy { emptyAt 7 with rd := 1 } = (emptyAt 7).par.n - 2 := by decide
theorem witness_FallEnqueuesTarget :
    paramsOk (emptyAt 7).par = true ∧ (emptyAt 7).en = true ∧ (emptyAt 7).hd = true ∧
    (emptyAt 7).wr % 2 = 1 ∧ (emptyAt 6).wr % 2 = 0 ∧ (emptyAt 6).wr < (emptyAt 6).par.n ∧
    (emptyAt 7).rd < (emptyAt 7).par.n ∧ occupancy (emptyAt 7) = (emptyAt 7).par.n - 1 ∧
    occupancy { emptyAt 6 with rd := 0 } = (emptyAt 7).par.n - 2 := by decide
theorem witness_PollIdleWhenNothingToDo :
    (State.reset.dph = .idle ∧ State.reset.en = false) ∧ { emptyAt 0 with hd := false }.hd = false ∧
    (emptyAt 0).rd = (emptyAt 0).wr := by decide
theorem witness_PollPopsDuePrefix :
    Inv (queued .atomic 50) ∧ RingWritten (queued .atomic 50) ∧ (queued .atomic 50).rd ≠ (queued .atomic 50).wr :=
  ⟨inv_queued_atomic, by decide, by decide⟩
theorem witness_InterleavedPollRefinesAtomic :
    Inv (queued .interleaved 50) ∧ (queued .interleaved 50).dph = .idle :=
  ⟨inv_queued_interleaved, by decide⟩
theorem witness_InterleavedPollTerminates :
    Inv (queued .interleaved 50) ∧ (queued .interleaved 50).par.pollMode = .interleaved :=
  ⟨inv_queued_interleaved, by decide⟩
/-- Mid-iteration, from TEST and from DRIVE: the POLL ends the iteration and starts none. -/
theorem witness_InterleavedPollTerminates_mid :
    let test := { queued .interleaved 50 with dph := .test, tL := some 50 }
    let drive := { queued .interleaved 50 with dph := .drive, pL := some true }
    (Inv test ∧ Inv drive) ∧ (nextOf (exec .poll test)).map (fun s => (s.rd, s.out)) = some (1, true) ∧
    (nextOf (exec .poll drive)).map (fun s => (s.rd, s.out)) = some (0, true) :=
  ⟨⟨inv_of_check (f := 0x21#6) (by decide), inv_of_check (f := 0x21#6) (by decide)⟩, by decide, by decide⟩
/-- A state whose POLL faults: the ghosts of a lost reset (P5). -/
theorem witness_InterleavedPollTerminates_fault :
    Inv { queued .interleaved 61 with rd := 1, wr := 0 } ∧
    faultOf (exec .poll { queued .interleaved 61 with rd := 1, wr := 0 }) = some (.unwrittenSlotRead 2) :=
  ⟨inv_of_check (f := 0x21#6) (by decide), by decide⟩
theorem witness_InterleavedPollCompletes :
    Inv { queued .interleaved 50 with dph := .commit, rL := some 0, tL := some 50 } ∧
    RingWritten { queued .interleaved 50 with dph := .commit, rL := some 0, tL := some 50 } ∧
    PopCoherent { queued .interleaved 50 with dph := .commit, rL := some 0, tL := some 50 } :=
  ⟨inv_of_check (f := 0x21#6) (by decide), by decide, by decide⟩
theorem witness_PstepStartsIteration :
    (queued .interleaved 50).par.pollMode = .interleaved ∧ (queued .interleaved 50).dph = .idle ∧
    { queued .interleaved 50 with dph := .snap }.dph = .snap ∧
    { queued .interleaved 50 with dph := .time }.dph = .time := by decide
/-- Each of the three cases of TEST: drained, head written, head unwritten. -/
theorem witness_PstepTestReadsHead :
    let s := { queued .interleaved 50 with dph := .test, tL := some 50 }
    s.par.pollMode = .interleaved ∧ s.rd < s.par.n ∧ s.rd ≠ s.wr ∧ Memory.read s.slots s.rd = some 50 ∧
    { s with wr := 0 }.rd = { s with wr := 0 }.wr ∧ Memory.read { s with rd := 3 }.slots 3 = none := by decide
theorem witness_PstepCommitPopsFromLocal :
    let s := { queued .interleaved 50 with dph := .commit, rL := some 3 }
    s.par.pollMode = .interleaved ∧ s.dph = .commit ∧ s.rL = some 3 := by decide
theorem witness_PstepParThenDrive :
    { queued .interleaved 50 with dph := .par }.dph = .par ∧
    { queued .interleaved 50 with dph := .drive, pL := some true }.pL = some true := by decide
theorem witness_StopsInStatesNoRunReaches :
    let s := { queued .interleaved 50 with dph := .test }
    s.par.pollMode = .interleaved ∧ s.rd ≠ s.wr ∧ s.tL = none ∧ { s with dph := .commit }.rL = none ∧
    { s with dph := .drive }.pL = none ∧ s.par.n ≤ 4 := by decide
theorem witness_IgnoredBytesChangeNothing :
    { par4 .atomic with highPolicy := .ignore }.highPolicy = .ignore := by decide
/-- The bytes at the edges of the three classes. -/
theorem witness_CfgIgnoresOrReconfigures :
    configByteOf (.cfgIgn 0x1F#5) = some 0x1F#8 ∧ configByteOf (.cfgLoadLow 0#5) = some 0x20#8 ∧
    configByteOf (.cfgLoadHigh 0x1F#5) = some 0x5F#8 ∧ configByteOf (.cfgHighLow 0#5) = some 0x60#8 ∧
    configByteOf (.cfgHighTop 0x7F#7) = some 0xFF#8 := by decide
/-- V-CFG row 9. -/
theorem witness_DisableThenEnableRoundTrip :
    (0x21#6).getLsbD 5 = true ∧ configByteOf (.cfgLoadLow 1#5) = some 0x21#8 ∧
    configByteOf (.cfgLoadHigh 1#5) = some 0x41#8 ∧
    flagLoaded (Params.standard 8) 0x21#8 = some (0x21#6 &&& 0x1F#6) ∧
    flagLoaded (Params.standard 8) 0x41#8 = some 0x21#6 := by decide
theorem witness_ConfigurationReplacedWholesale :
    (nextOf (takeStimulus ⟨0, .command 0x441#11⟩ State.reset)).isSome = true ∧
    (nextOf (takeStimulus ⟨0, .command 0x000#11⟩ State.reset)).isSome = true := by decide
theorem witness_EdgeArrivalsCoalesce :
    { emptyAt 0 with pendRise := true }.pendRise = true ∧ { emptyAt 0 with pendFall := true }.pendFall = true := by
  decide
theorem witness_ServiceClearsAndRunsHandler :
    mayService { emptyAt 0 with pendRise := true } .rise = true ∧
    mayService { emptyAt 0 with pendFall := true } .fall = true ∧
    mayService { emptyAt 0 with serq := [0x41#8] } .rx = true ∧ mayService (emptyAt 0) .rise = false := by decide
theorem witness_ServiceOrderRespected :
    (emptyAt 0).par.serviceOrder = .any ∧
    { par4 .atomic with serviceOrder := .fixed .fallRxRise }.serviceOrder = .fixed .fallRxRise := by decide
/-- Each kind of step, and two of three waiting bytes served past a pending edge. -/
theorem witness_BytesServedInArrivalOrder :
    let s := { emptyAt 0 with serq := [0x1F#8, 0x21#8, 0x45#8], pendRise := true }
    s.serq = [0x1F#8, 0x21#8] ++ [0x45#8] ∧ mayService s .rx = true ∧
    flagLoaded s.par 0x21#8 = some 0x01#6 ∧
    (nextOf (takeStimulus ⟨3, .service .rx⟩ s)).map (·.serq) = some [0x21#8, 0x45#8] ∧
    (nextOf (takeStimulus ⟨0, .byteArrives 0xFF#8⟩ s)).map (·.serq) =
      some [0x1F#8, 0x21#8, 0x45#8, 0xFF#8] ∧
    (nextOf (takeStimulus ⟨0, .command 0x200#11⟩ s)).map (·.serq) = some s.serq ∧
    (nextOf (takeStimulus ⟨0, .service .rise⟩ s)).map (·.serq) = some s.serq ∧
    (nextOf (takeStimulus ⟨0, .powerOn⟩ s)).map (·.serq) = some [] ∧
    (nextOf (takeStimulus ⟨0, .edgeFall⟩ s)).map (·.serq) = some s.serq ∧
    (nextOf (takeStimulus ⟨0, .edgeRise⟩ s)).map (·.serq) = some s.serq ∧
    (nextOf (takeStimulus ⟨0, .service .fall⟩ { s with pendFall := true })).map (·.serq) = some s.serq := by
  decide
theorem witness_ServiceKeepsDispatcherState :
    paramsOk (emptyAt 7).par = true ∧ (emptyAt 7).wr < (emptyAt 7).par.n ∧
    mayService { emptyAt 7 with pendRise := true } .rise = true := by decide
theorem witness_PowerOnTable : (Params.standard 8).resetFlag = 0#6 := by decide
theorem witness_PowerOnResetKeepsClock : paramsOk (queued .atomic 50).par = true := by decide
theorem witness_BadParametersRefused : paramsOk { emptyAt 0 with par := Params.standard 7 }.par = false := by decide
theorem witness_StepRunsDecodedCommand :
    paramsOk State.reset.par = true ∧
    (State.reset.withFetchWord 16 0x441).schedule = [⟨0, .command 0x441#11⟩] := by decide
theorem witness_ClockAndParametersMonotone :
    (nextOf (step { State.reset with schedule := [⟨5, .edgeRise⟩] })).map (fun s => (s.clock, s.pendRise)) =
      some (5, true) := by decide
theorem witness_InvariantAtPowerOn : paramsOk (Params.standard 4) = true := by decide
theorem witness_StepKeepsInvariant :
    Inv { queued .atomic 50 with schedule := [⟨0, .command 0x100#11⟩] } ∧
    (nextOf (step { queued .atomic 50 with schedule := [⟨0, .command 0x100#11⟩] })).isSome = true :=
  ⟨inv_of_check (f := 0x21#6) (by decide), by decide⟩
theorem witness_AtomicNeverReadsUnwritten :
    Inv (queued .atomic 50) ∧ (queued .atomic 50).par.pollMode = .atomic ∧ RingWritten (queued .atomic 50) :=
  ⟨inv_queued_atomic, by decide, by decide⟩
/-- At COMMIT with an event that loads no configuration, and at another phase with one that does. -/
theorem witness_InterleavedKeepsRingWritten :
    let s := { queued .interleaved 50 with dph := .commit, rL := some 0, tL := some 50 }
    Inv s ∧ RingWritten s ∧ PopCoherent s ∧ ¬(s.dph = .commit ∧ loadsConfig (.command 0x500#11) s = true) ∧
    ¬((queued .interleaved 50).dph = .commit ∧
      loadsConfig (.command 0x441#11) (queued .interleaved 50) = true) :=
  ⟨inv_of_check (f := 0x21#6) (by decide), by decide, by decide, by decide, by decide⟩
theorem witness_AtomicOutputFollowsReader :
    let s := { queued .atomic 50 with schedule := [⟨0, .command 0x100#11⟩] }
    Inv s ∧ s.out = decide (s.rd % 2 = 1) ∧ (nextOf (step s)).map (fun t => (t.out, t.rd)) = some (true, 1) :=
  ⟨inv_of_check (f := 0x21#6) (by decide), by decide, by decide⟩
theorem witness_DisabledModeEmitsNothing :
    State.reset.en = false ∧ State.reset.dph = .idle ∧ State.reset.par.pollMode = .interleaved ∧
    State.reset.pendRise = false ∧ mayService { State.reset with pendRise := true } .rise = true ∧
    State.reset.pendFall = false ∧ mayService { State.reset with pendFall := true } .fall = true := by decide
/-- P5's race, and its corner `k = N − 1`. -/
theorem witness_LostReset :
    let s := { queued .interleaved 50 with dph := .commit, rL := some 1, tL := some 50, serq := [0x41#8] }
    paramsOk s.par = true ∧ s.par.pollMode = .interleaved ∧ s.dph = .commit ∧ s.rL = some 1 ∧ 1 < s.par.n ∧
    { s with rL := some 3 }.rL = some 3 ∧ 3 < s.par.n ∧
    configByteOf (.cfgLoadLow 1#5) = some 0x21#8 ∧ flagLoaded s.par 0x21#8 = some 0x01#6 ∧
    configByteOf (.cfgHighTop 0x7F#7) = some 0xFF#8 ∧ flagLoaded s.par 0xFF#8 = some 0x1F#6 ∧
    s.serq = [0x41#8] ∧ flagLoaded s.par 0x41#8 = some 0x21#6 ∧ mayService s .rx = true ∧
    s.tL = some 50 ∧ 1 + 1 < s.par.n ∧ Memory.read s.slots (1 + 1) = none := by decide
theorem witness_StaleDrive :
    let s := { queued .interleaved 50 with dph := .drive, pL := some true, serq := [0x60#8] }
    s.par.pollMode = .interleaved ∧ s.dph = .drive ∧ s.pL = some true ∧
    configByteOf (.cfgLoadHigh 1#5) = some 0x41#8 ∧ flagLoaded s.par 0x41#8 = some 0x21#6 ∧
    s.serq = [0x60#8] ∧ flagLoaded s.par 0x60#8 = some 0#6 ∧ mayService s .rx = true := by decide
theorem witness_CompensatedPairCollapses :
    let s := { queued .atomic 60 with slots := [(0, 50), (1, 60), (2, 60)], wr := 3 }
    Inv s ∧ RingWritten s ∧ 1 + 1 < occupancy s ∧ Memory.read s.slots ((s.rd + 1) % s.par.n) = some 60 ∧
    Memory.read s.slots ((s.rd + 1 + 1) % s.par.n) = some 60 ∧
    (nextOf (exec .poll s)).map (·.rd) = some 3 :=
  ⟨inv_of_check (f := 0x21#6) (by decide), by decide, by decide, by decide, by decide, by decide⟩
theorem witness_ServiceOrderDecidesLevel :
    let s := { emptyAt 0 with pendRise := true, pendFall := true }
    paramsOk s.par = true ∧ s.par.serviceOrder = .any ∧ 4 ≤ s.par.n ∧ s.en = true ∧ s.hd = true ∧
    s.rd = 0 ∧ s.wr = 0 ∧ s.pendRise = true ∧ s.pendFall = true ∧ s.dph = .idle ∧
    due s.par.w ((nowOf s + s.lat) % 2 ^ s.par.w) ((s.clock + 20) % 2 ^ s.par.w) = true := by decide
/-- R242: the level a POLL leaves in either order. -/
theorem test_service_order_decides_level :
    let s := { emptyAt 0 with pendRise := true, pendFall := true }
    [[Event.service .rise, .service .fall], [.service .fall, .service .rise]].map (fun es =>
      (nextOf (andThen (runEvents es s) fun a => exec .poll (advanceClock 20 a))).map fun a => (a.rd, a.out)) =
      [some (2, false), some (3, true)] := by decide
/-- A push, an ATOMIC POLL that pops, and a COMMIT. -/
theorem witness_QueueIsFifo :
    let s := queued .atomic 50
    let p := queued .interleaved 50
    let commit := { p with dph := .commit, rL := some 0, tL := some 50 }
    (Inv s ∧ FifoCoherent s ∧ Inv commit ∧ FifoCoherent commit) ∧
    (entriesPushed (.command 0x200#11) s).length + occupancy s < s.par.n ∧
    loadsConfig (.command 0x200#11) s = false ∧
    (nextOf (takeStimulus ⟨0, .command 0x200#11⟩ s)).map visible = some [some 50, some 60, some 70] ∧
    (nextOf (takeStimulus ⟨0, .command 0x100#11⟩ s)).map visible = some [some 60] ∧
    (nextOf (takeStimulus ⟨0, .command 0x500#11⟩ commit)).map visible = some [some 60] :=
  ⟨⟨inv_queued_atomic, by decide, inv_of_check (f := 0x21#6) (by decide), by decide⟩, by decide, by decide,
    by decide, by decide, by decide⟩
theorem witness_ReachableStatesAreSafe : Reachable (par4 .atomic) (State.powerOn (par4 .atomic) 7) :=
  .launch 7 (by decide)

end Sys2Proof.Tests
end

section
/-! PROOFS. The well-formedness of a parameter set (00_scope.md R5) and the refusal of a set without it
(R5, R233, R201). -/

namespace Sys2Proof.Machine

/-- R5: the eight conditions are also enough, so they say exactly which parameter sets are well formed. -/
theorem paramsOk_iff_conditions {p : Params} :
    paramsOk p = true ↔
      p.n % 2 = 0 ∧ 2 ≤ p.n ∧ 14 ≤ p.w ∧ 1 ≤ p.delayFactor ∧ 15 * p.delayFactor < 2 ^ (p.w - 1) ∧
        8 * 1000 < 2 ^ (p.w - 1) ∧ 8 * p.exp0Exponent < 2 ^ (p.w - 1) ∧ 1 ≤ p.ovfWidth := by
  refine ⟨paramsOk_conditions, ?_⟩
  rintro ⟨heven, hn, hw, hfactor, hlinear, hexp, hexp0, hovf⟩
  simp [paramsOk, *]

/-- R233: whatever the stimulus, a machine whose parameter set is not well formed refuses it. -/
theorem takeStimulus_of_not_paramsOk {s : State} (h : paramsOk s.par = false) (st : Stimulus) :
    takeStimulus st s = .refused (.badParameters s.par) := by
  simp [takeStimulus, h]

/-- The refusal does not depend on where the stimulus comes from: the plan or a free draw. -/
theorem step_of_not_paramsOk {s : State} (h : paramsOk s.par = false) :
    step s = .refused (.badParameters s.par) := by
  cases hplan : s.schedule with
  | nil => simp [step_drawn hplan, takeStimulus_of_not_paramsOk, h]
  | cons st rest => simp [step_planned hplan, takeStimulus_of_not_paramsOk, h]

/-- Settles O45: R5's conditions read off `paramsOk`, and every step refused by them with code 5. -/
theorem badParametersRefused : Obligations.BadParametersRefused :=
  ⟨fun _ => paramsOk_iff_conditions, fun _ => step_of_not_paramsOk, fun _ => rfl⟩

end Sys2Proof.Machine
end

section
/-! PROOFS. The ring the two cursors show: how many entries, and which slots they are (10_state.md R34, R39,
20_memory.md R57). -/

namespace Sys2Proof.Machine

/-- R57: the increment wraps at the last slot. -/
theorem inc_eq_ite {n i : Nat} (h : i < n) : inc n i = if i + 1 = n then 0 else i + 1 := by
  unfold inc
  split
  · next hwrap => rw [hwrap, Nat.mod_self]
  · next hwrap => exact Nat.mod_eq_of_lt (by omega)

/-- Every slot lies some number of increments after the reader. -/
theorem exists_offset {n rd i : Nat} (hrd : rd < n) (hi : i < n) : ∃ k, k < n ∧ (rd + k) % n = i := by
  by_cases h : rd ≤ i
  · exact ⟨i - rd, by omega, by rw [Nat.add_sub_cancel' h, Nat.mod_eq_of_lt hi]⟩
  · refine ⟨i + n - rd, by omega, ?_⟩
    rw [show rd + (i + n - rd) = i + n by omega, Nat.add_mod_right, Nat.mod_eq_of_lt hi]

/-- Counting from the slot after the reader. -/
theorem inc_add_mod (n i k : Nat) : (inc n i + k) % n = (i + (k + 1)) % n := by
  rw [inc, Nat.mod_add_mod, Nat.add_assoc, Nat.add_comm 1 k]

section Ring

variable {s : State}

theorem occupancy_lt (hn : 0 < s.par.n) : occupancy s < s.par.n := Nat.mod_lt _ hn

/-- R34, without the remainder. -/
theorem occupancy_eq_ite (hrd : s.rd < s.par.n) (hwr : s.wr < s.par.n) :
    occupancy s = if s.rd ≤ s.wr then s.wr - s.rd else s.wr + s.par.n - s.rd := by
  unfold occupancy
  rw [Nat.mod_eq_of_lt hrd]
  split
  · rw [show s.wr + (s.par.n - s.rd) = s.wr - s.rd + s.par.n by omega, Nat.add_mod_right,
      Nat.mod_eq_of_lt (by omega)]
  · rw [Nat.mod_eq_of_lt (by omega), Nat.add_sub_assoc hrd.le]

/-- The queue reads empty exactly when the cursors meet. -/
theorem occupancy_eq_zero_iff (hrd : s.rd < s.par.n) (hwr : s.wr < s.par.n) :
    occupancy s = 0 ↔ s.rd = s.wr := by
  rw [occupancy_eq_ite hrd hwr]
  split <;> omega

/-- The writer stands one past the last visible entry. -/
theorem reader_add_occupancy (hrd : s.rd < s.par.n) (hwr : s.wr < s.par.n) :
    (s.rd + occupancy s) % s.par.n = s.wr := by
  rw [occupancy_eq_ite hrd hwr]
  split
  · rw [Nat.add_sub_cancel' ‹_›, Nat.mod_eq_of_lt hwr]
  · rw [show s.rd + (s.wr + s.par.n - s.rd) = s.wr + s.par.n by omega, Nat.add_mod_right,
      Nat.mod_eq_of_lt hwr]

/-- R127: an advance of the writer shows one entry more, or none when it catches up with the reader. -/
theorem occupancy_advanceWriter (hn : 2 ≤ s.par.n) (hrd : s.rd < s.par.n) (hwr : s.wr < s.par.n) :
    occupancy (advanceWriter s) = if inc s.par.n s.wr = s.rd then 0 else occupancy s + 1 := by
  have hinc : inc s.par.n s.wr < s.par.n := inc_lt (by omega) _
  rw [occupancy_eq_ite hrd hwr, occupancy_eq_ite (by simpa using hrd) (by simpa using hinc)]
  simp only [advanceWriter_par, advanceWriter_rd, advanceWriter_wr, inc_eq_ite hwr]
  split_ifs <;> omega

/-- The writer that catches up with the reader found `N - 1` entries. -/
theorem occupancy_of_catch_up (hn : 2 ≤ s.par.n) (hrd : s.rd < s.par.n) (hwr : s.wr < s.par.n)
    (h : inc s.par.n s.wr = s.rd) : occupancy s + 1 = s.par.n := by
  rw [inc_eq_ite hwr] at h
  rw [occupancy_eq_ite hrd hwr]
  split_ifs at h ⊢ <;> omega

/-- A pop shows one entry less; one at an empty queue makes `N - 1` appear. -/
theorem occupancy_pop (hrd : s.rd < s.par.n) (hwr : s.wr < s.par.n) :
    occupancy { s with rd := inc s.par.n s.rd } =
      if s.rd = s.wr then s.par.n - 1 else occupancy s - 1 := by
  have hinc : inc s.par.n s.rd < s.par.n := inc_lt (by omega) _
  rw [occupancy_eq_ite hrd hwr, occupancy_eq_ite (by exact hinc) (by exact hwr)]
  simp only [inc_eq_ite hrd]
  split_ifs <;> omega

end Ring

end Sys2Proof.Machine
end

section
/-! PROOFS. What one step of a run does to the block, said once: the platform's fields aside, it is one of
eight operations, or a refusal (60_exceptions.md R208). -/

namespace Sys2Proof.Safety

open Sys2Proof.Machine

/-- `s1` differs from `s` in the clock, the pending state and the environment's plan at most. -/
def SameBlock (s s1 : State) : Prop :=
  ∃ clock pendRise pendFall serq schedule draws,
    s1 = { s with
      clock := clock, pendRise := pendRise, pendFall := pendFall, serq := serq,
      schedule := schedule, draws := draws }

theorem SameBlock.refl (s : State) : SameBlock s s := ⟨_, _, _, _, _, _, rfl⟩

theorem SameBlock.trans {s s1 s2 : State} (h1 : SameBlock s s1) (h2 : SameBlock s1 s2) :
    SameBlock s s2 := by
  obtain ⟨_, _, _, _, _, _, rfl⟩ := h1
  obtain ⟨_, _, _, _, _, _, rfl⟩ := h2
  exact ⟨_, _, _, _, _, _, rfl⟩

theorem SameBlock.par {s s1 : State} (h : SameBlock s s1) : s1.par = s.par := by
  obtain ⟨_, _, _, _, _, _, rfl⟩ := h
  rfl

theorem sameBlock_advanceClock (dt : Nat) (s : State) : SameBlock s (advanceClock dt s) :=
  ⟨_, _, _, _, _, _, rfl⟩

theorem sameBlock_edgeArrives (role : Role) (s : State) : SameBlock s (edgeArrives role s) := by
  cases role <;> exact ⟨_, _, _, _, _, _, rfl⟩

theorem sameBlock_byteArrives (c : ConfigByte) (s : State) : SameBlock s (byteArrives c s) :=
  ⟨_, _, _, _, _, _, rfl⟩

theorem sameBlock_acceptSource (src : Source) (s : State) : SameBlock s (acceptSource src s) := by
  cases src <;> exact ⟨_, _, _, _, _, _, rfl⟩

/-- The plan's entry or the draw is taken without touching the block. -/
theorem sameBlock_nextStimulus (s : State) : SameBlock s (nextStimulus s).2 := by
  unfold nextStimulus
  split <;> exact ⟨_, _, _, _, _, _, rfl⟩

/-- The operations of the block: the answer `r` is one of them on `s`. `loads` says whether the event may
load a configuration. -/
inductive Effect (loads : Bool) (s : State) (r : Result) : Prop where
  | refuse (x : Refusal) : r = .refused x → Effect loads s r
  | keep : r = .next s → Effect loads s r
  | drive (level : Bool) : modeOf s = .direct → r = .next (driveOut level s) → Effect loads s r
  | enqueue (role : Role) : modeOf s = .delayed →
      r = Machine.enqueue role (target s.par.w (nowOf s) s.lat) s → Effect loads s r
  | configure (f : Flag) : loads = true → r = .next (Machine.configure f s) → Effect loads s r
  | powerOn : r = .next (powerOnReset s) → Effect loads s r
  | pollAtomic : s.par.pollMode = .atomic → r = Machine.pollAtomic s → Effect loads s r
  | pollInterleaved : s.par.pollMode = .interleaved → r = Machine.pollInterleaved s → Effect loads s r
  | microStep : s.par.pollMode = .interleaved → r = Machine.microStep s → Effect loads s r

/-- R142: an edge handler keeps the state, drives the output in direct mode, or enqueues the target time. -/
theorem edgeHandler_effect (loads : Bool) (role : Role) (level : Bool) (s : State) :
    Effect loads s (edgeHandler role level s) := by
  unfold edgeHandler
  split
  · exact .keep rfl
  · exact .enqueue role ‹_› rfl
  · exact .drive level ‹_› rfl

/-- R180, R181: a byte is ignored or loaded. -/
theorem serveByte_effect (c : ConfigByte) (s : State) :
    Effect (flagLoaded s.par c).isSome s (.next (serveByte c s)) := by
  cases hf : flagLoaded s.par c with
  | none => exact .keep (by rw [serveByte_ignored hf])
  | some f => exact .configure f rfl (by rw [serveByte_loaded hf])

theorem execPoll_effect (loads : Bool) (s : State) : Effect loads s (execPoll s) := by
  unfold execPoll
  split
  · exact .pollAtomic ‹_› rfl
  · exact .pollInterleaved ‹_› rfl

theorem execPstep_effect (loads : Bool) (s : State) : Effect loads s (execPstep s) := by
  unfold execPstep
  split
  · exact .refuse _ rfl
  · exact .microStep ‹_› rfl

/-- A CFG command serves the byte it carries (R180). -/
theorem exec_of_configByteOf {i : Instr} {c : ConfigByte} (h : configByteOf i = some c) (s : State) :
    exec i s = .next (serveByte c s) := by
  cases i <;> simp only [configByteOf, Option.some.injEq, reduceCtorEq] at h <;> subst h <;> rfl

/-- An instruction that carries a byte serves it; of the others only the edge handlers and the dispatcher act. -/
theorem exec_effect {i : Instr} {s : State} {loads : Bool}
    (hloads : ∀ c, configByteOf i = some c → (flagLoaded s.par c).isSome = loads) :
    Effect loads s (exec i s) := by
  cases hc : configByteOf i with
  | some c => rw [exec_of_configByteOf hc, ← hloads c hc]; exact serveByte_effect c s
  | none =>
    cases i with
    | nop => exact .keep rfl
    | poll => exact execPoll_effect loads s
    | rise => exact edgeHandler_effect loads .on true s
    | fall => exact edgeHandler_effect loads .off false s
    | pstep => exact execPstep_effect loads s
    | cfgIgn | cfgLoadLow | cfgLoadHigh | cfgHighLow | cfgHighTop => cases hc
    | reservedOp | nonzeroNop | nonzeroPoll | nonzeroRise | nonzeroFall | nonzeroPstep =>
      exact .refuse _ rfl

/-- R204: a service is its handler after the source is cleared, or is refused. -/
theorem service_effect (src : Source) (s : State) :
    ∃ s1, SameBlock s s1 ∧ Effect (loadsConfig (.service src) s) s1 (service src s) := by
  by_cases hm : mayService s src = true
  case neg => exact ⟨s, .refl s, .refuse (.noServiceStep src) (by simp [service, hm])⟩
  simp only [service, hm, if_true]
  cases src with
  | rise => exact ⟨_, sameBlock_acceptSource .rise s, edgeHandler_effect _ .on true _⟩
  | fall => exact ⟨_, sameBlock_acceptSource .fall s, edgeHandler_effect _ .off false _⟩
  | rx =>
    cases hq : s.serq with
    | nil => exact ⟨s, .refl s, .refuse _ rfl⟩
    | cons c cs =>
      refine ⟨_, sameBlock_acceptSource .rx s, ?_⟩
      simpa [loadsConfig, hq] using serveByte_effect c (acceptSource .rx s)

theorem runEvent_effect (e : Event) (s : State) :
    ∃ s1, SameBlock s s1 ∧ Effect (loadsConfig e s) s1 (runEvent e s) := by
  cases e with
  | command w => exact ⟨s, .refl s, exec_effect fun c hc => by simp [loadsConfig, hc]⟩
  | edgeRise => exact ⟨_, sameBlock_edgeArrives .on s, .keep rfl⟩
  | edgeFall => exact ⟨_, sameBlock_edgeArrives .off s, .keep rfl⟩
  | byteArrives c => exact ⟨_, sameBlock_byteArrives c s, .keep rfl⟩
  | service src => exact service_effect src s
  | powerOn => exact ⟨s, .refl s, .powerOn rfl⟩

/-- R208: every step of every agent is one operation of the block, or a refusal. -/
theorem takeStimulus_effect (st : Stimulus) (s : State) :
    ∃ s1, SameBlock s s1 ∧ Effect (loadsConfig st.event s) s1 (takeStimulus st s) := by
  by_cases hp : paramsOk s.par = true
  · obtain ⟨s1, hs, he⟩ := runEvent_effect st.event (advanceClock st.elapsed s)
    refine ⟨s1, (sameBlock_advanceClock _ s).trans hs, ?_⟩
    simpa [takeStimulus, hp] using he
  · exact ⟨s, .refl s, .refuse _ (takeStimulus_of_not_paramsOk (by simpa using hp) st)⟩

/-- The configuration changes only where a whole `DECODE` result is loaded: by a CFG or at power-on. -/
theorem configuration_of_effect {loads : Bool} {s s' : State} (h : Effect loads s (.next s')) :
    (s'.en = s.en ∧ s'.hd = s.hd ∧ s'.lat = s.lat) ∨
      (∃ f, decodeFlag s.par f = ⟨s'.en, s'.hd, s'.lat⟩) ∧ s'.rd = 0 ∧ s'.wr = 0 ∧ s'.out = false := by
  cases h with
  | refuse x h => cases h
  | keep h => cases h; exact .inl ⟨rfl, rfl, rfl⟩
  | drive level _ h => cases h; exact .inl ⟨rfl, rfl, rfl⟩
  | enqueue role _ h => rw [enqueue_frame h.symm]; exact .inl ⟨rfl, rfl, rfl⟩
  | configure f _ h => cases h; exact .inr ⟨⟨f, rfl⟩, rfl, rfl, rfl⟩
  | powerOn h => cases h; exact .inr ⟨⟨s.par.resetFlag, rfl⟩, rfl, rfl, rfl⟩
  | pollAtomic _ h => rw [pollAtomic_frame h.symm]; exact .inl ⟨rfl, rfl, rfl⟩
  | pollInterleaved _ h => rw [iterate_frame h.symm]; exact .inl ⟨rfl, rfl, rfl⟩
  | microStep _ h => rw [microStep_frame h.symm]; exact .inl ⟨rfl, rfl, rfl⟩

/-- Settles O36: of the block's operations only CFG and power-on write the configuration. -/
theorem configurationReplacedWholesale : Obligations.ConfigurationReplacedWholesale := by
  intro s s' st h
  obtain ⟨s1, hs, he⟩ := takeStimulus_effect st s
  obtain ⟨_, _, _, _, _, _, rfl⟩ := hs
  rw [h] at he
  simpa using configuration_of_effect he

end Sys2Proof.Safety
end

section
/-! PROOFS. What a dispatcher micro-step does, said once (44_dispatcher.md R162 to R170). -/

namespace Sys2Proof.Safety

open Sys2Proof.Machine

/-- The micro-steps that have a next state, phase by phase (R163 to R169). -/
inductive MicroMove (s : State) : State → Prop where
  | start : s.dph = .idle → s.en = true → s.hd = true → MicroMove s { s with dph := .snap }
  | rest : s.dph = .idle → (s.en && s.hd) = false → MicroMove s { s with dph := .idle }
  | empty : s.dph = .snap → s.rd = s.wr → MicroMove s { s with dph := .idle }
  | nonempty : s.dph = .snap → s.rd ≠ s.wr → MicroMove s { s with dph := .time }
  | sample : s.dph = .time → MicroMove s { s with tL := some (nowOf s), dph := .test }
  | drained : s.dph = .test → s.rd = s.wr → MicroMove s { s with rL := some s.rd, dph := .par }
  | wait (t ts : Nat) : s.dph = .test → s.rd ≠ s.wr → s.tL = some t → slotRead s.rd s = .ok ts →
      due s.par.w ts t = false → MicroMove s { s with rL := some s.rd, dph := .par }
  | take (t ts : Nat) : s.dph = .test → s.rd ≠ s.wr → s.tL = some t → slotRead s.rd s = .ok ts →
      due s.par.w ts t = true → MicroMove s { s with rL := some s.rd, dph := .commit }
  | pop (r : Nat) : s.dph = .commit → s.rL = some r →
      MicroMove s { s with rd := inc s.par.n r, dph := .test }
  | readParity : s.dph = .par → MicroMove s { s with pL := some (parity s.rd), dph := .drive }
  | drive (b : Bool) : s.dph = .drive → s.pL = some b → MicroMove s { s with out := b, dph := .idle }

theorem stepTest_move {s s' : State} (hp : s.dph = .test) (h : stepTest s = .next s') : MicroMove s s' := by
  unfold stepTest at h
  split at h
  · cases h; exact .drained hp ‹_›
  split at h
  · cases h
  split at h
  · cases h
  · next hne _ t ht _ ts hts =>
    cases h
    cases hdue : due s.par.w ts t with
    | false => exact .wait t ts hp hne ht hts hdue
    | true => exact .take t ts hp hne ht hts hdue

theorem microStep_move {s s' : State} (h : microStep s = .next s') : MicroMove s s' := by
  unfold microStep at h
  split at h <;> rename_i hp
  · unfold stepIdle at h
    split at h <;> cases h
    · next hmode =>
      obtain ⟨hen, hhd⟩ := Bool.and_eq_true_iff.1 hmode
      exact .start hp hen hhd
    · next hmode => exact .rest hp (Bool.eq_false_iff.2 hmode)
  · unfold stepSnap at h
    split at h <;> cases h
    · exact .empty hp ‹_›
    · exact .nonempty hp ‹_›
  · cases h; exact .sample hp
  · exact stepTest_move hp h
  · unfold stepCommit at h
    split at h <;> cases h
    exact .pop _ hp ‹_›
  · cases h; exact .readParity hp
  · unfold stepDrive at h
    split at h <;> cases h
    exact .drive _ hp ‹_›

/-- R30, R52: where the locals are written and the reader is in range, a micro-step faults only at a TEST
whose head slot is unwritten. -/
theorem microStep_fault {s : State} {f : Fault} (hl : localsReady s = true) (hrd : s.rd < s.par.n)
    (h : microStep s = .fault f) : s.dph = .test ∧ s.rd ≠ s.wr ∧ Memory.read s.slots s.rd = none := by
  unfold microStep at h
  unfold localsReady at hl
  split at h <;> rename_i hp <;> rw [hp] at hl
  · unfold stepIdle at h
    split at h <;> cases h
  · unfold stepSnap at h
    split at h <;> cases h
  · cases h
  · refine ⟨hp, ?_⟩
    unfold stepTest at h
    split at h
    · cases h
    · next hne =>
      refine ⟨hne, ?_⟩
      split at h
      · next ht => simp [ht] at hl
      · cases hm : Memory.read s.slots s.rd with
        | none => rfl
        | some ts => simp [slotRead, hrd, hm] at h
  · unfold stepCommit at h
    split at h
    · next hr => simp [hr] at hl
    · cases h
  · cases h
  · unfold stepDrive at h
    split at h
    · next hb => simp [hb] at hl
    · cases h

theorem MicroMove.par {s s' : State} (h : MicroMove s s') : s'.par = s.par := by
  cases h <;> rfl

/-- R172: how many micro-steps the iteration in progress still takes at most, given that nothing else
happens: two for every entry it may pop, and those of its phase. -/
def stepsLeft (s : State) : Nat :=
  match s.dph with
  | .idle => 2 * occupancy s + 6
  | .snap => 2 * occupancy s + 5
  | .time => 2 * occupancy s + 4
  | .test => 2 * occupancy s + 3
  | .commit => 2 * occupancy { s with rd := inc s.par.n (s.rL.getD 0) } + 4
  | .par => 2
  | .drive => 1

/-- R172: the bound on the loop of POLL is enough from every phase. -/
theorem stepsLeft_le {s : State} (hn : 0 < s.par.n) : stepsLeft s ≤ 2 * s.par.n + 4 := by
  have h1 : occupancy s < s.par.n := occupancy_lt hn
  have h2 : occupancy { s with rd := inc s.par.n (s.rL.getD 0) } < s.par.n := occupancy_lt hn
  unfold stepsLeft
  split <;> omega

theorem stepsLeft_pos (s : State) : 0 < stepsLeft s := by
  unfold stepsLeft
  split <;> omega

/-- R172: every micro-step that does not end the iteration brings its end nearer. -/
theorem MicroMove.stepsLeft_lt {s s' : State} (h : MicroMove s s') (hrd : s.rd < s.par.n)
    (hwr : s.wr < s.par.n) (hgo : s'.dph ≠ .idle) : stepsLeft s' < stepsLeft s := by
  cases h with
  | rest | empty | drive => exact absurd rfl hgo
  | start hp | nonempty hp | sample hp =>
    simp only [stepsLeft, hp]
    exact Nat.lt_succ_self _
  | drained hp | wait _ _ hp | readParity hp =>
    simp only [stepsLeft, hp]
    omega
  | take t ts hp hne =>
    have hsome : occupancy s ≠ 0 := (occupancy_eq_zero_iff hrd hwr).not.2 hne
    calc stepsLeft { s with rL := some s.rd, dph := .commit }
        = 2 * occupancy { s with rd := inc s.par.n s.rd } + 4 := rfl
      _ = 2 * (occupancy s - 1) + 4 := by rw [occupancy_pop hrd hwr, if_neg hne]
      _ < 2 * occupancy s + 3 := by omega
      _ = stepsLeft s := by simp only [stepsLeft, hp]
  | pop r hp hr =>
    simp only [stepsLeft, hp, hr, Option.getD_some]
    exact Nat.lt_succ_self _

end Sys2Proof.Safety
end

section
/-! PROOFS. The invariant: it holds at power-on and every operation of the block keeps it (10_state.md R37,
R38(a), R40). -/

namespace Sys2Proof.Safety

open Sys2Proof.Machine

/-- The invariant does not read the output, the pending state, the clock or the plan, and of the reader and
the dispatcher's own state it asks only what the hypotheses say. -/
theorem Inv.rewrite {s : State} (hi : Inv s) {rd out dph rL tL pL clock pendRise pendFall serq schedule draws}
    (hrd : rd < s.par.n) (hidle : s.par.pollMode = .atomic → dph = .idle)
    (hready : localsReady { s with dph := dph, rL := rL, tL := tL, pL := pL } = true)
    (hrL : below s.par.n rL = true) (htL : below (2 ^ s.par.w) tL = true) :
    Inv { s with
      rd := rd, out := out, dph := dph, rL := rL, tL := tL, pL := pL, clock := clock,
      pendRise := pendRise, pendFall := pendFall, serq := serq, schedule := schedule, draws := draws } :=
  ⟨hi.params, hrd, hi.writer, hi.slotsWf, hi.slotsBounded, hi.config, hi.overflow, hi.noCounter,
    hidle, hready, hrL, htL⟩

theorem Inv.sameBlock {s s1 : State} (hi : Inv s) (h : SameBlock s s1) : Inv s1 := by
  obtain ⟨_, _, _, _, _, _, rfl⟩ := h
  exact hi.rewrite hi.reader hi.atomicIdle hi.locals hi.readerLocal hi.timeLocal

theorem Inv.driveOut {s : State} (hi : Inv s) (level : Bool) : Inv (driveOut level s) :=
  hi.rewrite hi.reader hi.atomicIdle hi.locals hi.readerLocal hi.timeLocal

theorem Inv.two_le {s : State} (hi : Inv s) : 2 ≤ s.par.n := by
  obtain ⟨_, hn, _⟩ := paramsOk_conditions hi.params
  exact hn

theorem Inv.capacity_pos {s : State} (hi : Inv s) : 0 < s.par.n := Nat.zero_lt_of_lt hi.reader

theorem Inv.popped {s : State} (hi : Inv s) : Inv { s with rd := inc s.par.n s.rd } :=
  hi.rewrite (inc_lt hi.capacity_pos _) hi.atomicIdle hi.locals hi.readerLocal hi.timeLocal

/-- R28, R123: counting saturates, so the count stays in its width. -/
theorem advanceWriter_ovfCount_lt {s : State} (h : s.ovfCount < 2 ^ s.par.ovfWidth) :
    (advanceWriter s).ovfCount < 2 ^ s.par.ovfWidth := by
  have hpos := Nat.two_pow_pos s.par.ovfWidth
  simp only [advanceWriter, countOverflow_ovfCount]
  split
  · exact lt_of_le_of_lt (min_le_right _ _) (by omega)
  · exact h

theorem advanceWriter_ovfCount_of_no_counter {s : State} (h : s.par.hasOvfCounter = false) :
    (advanceWriter s).ovfCount = s.ovfCount := by
  simp [advanceWriter, countOverflow_ovfCount, h]

/-- R121: a push of a `W`-bit time keeps the invariant. -/
theorem Inv.pushed {s : State} (hi : Inv s) {t : Nat} (ht : t < 2 ^ s.par.w) :
    Inv (advanceWriter { s with slots := Memory.write s.slots s.wr t }) where
  params := by simpa using hi.params
  reader := by simpa using hi.reader
  writer := by simpa using inc_lt hi.capacity_pos s.wr
  slotsWf := by simpa using Memory.write_wf _ s.wr t hi.slotsWf
  slotsBounded := by simpa using Memory.write_bounded _ _ _ s.wr t hi.writer ht hi.slotsBounded
  config := by simpa using hi.config
  overflow := by simpa using advanceWriter_ovfCount_lt (s := { s with slots := Memory.write s.slots s.wr t }) hi.overflow
  noCounter h := by
    rw [advanceWriter_par] at h
    rw [advanceWriter_ovfCount_of_no_counter h]
    exact hi.noCounter h
  atomicIdle := by simpa using hi.atomicIdle
  locals := by simpa [localsReady] using hi.locals
  readerLocal := by simpa using hi.readerLocal
  timeLocal := by simpa using hi.timeLocal

theorem Inv.enqueue {s s' : State} (hi : Inv s) {role : Role} {t : Nat} (ht : t < 2 ^ s.par.w)
    (h : Machine.enqueue role t s = .next s') : Inv s' := by
  obtain ⟨s1, h1, h2⟩ := enqueue_eq_next h
  obtain ⟨-, rfl⟩ := push_eq_next.1 h1
  obtain ⟨-, rfl⟩ | ⟨-, h2⟩ := h2
  · exact hi.pushed ht
  · obtain ⟨-, rfl⟩ := push_eq_next.1 h2
    exact (hi.pushed ht).pushed (by simpa using ht)

/-- R40, R180: a loaded configuration is one `DECODE` result, and the cursors are 0. -/
theorem Inv.configure {s : State} (hi : Inv s) (f : Flag) : Inv (configure f s) where
  params := hi.params
  reader := hi.capacity_pos
  writer := hi.capacity_pos
  slotsWf := hi.slotsWf
  slotsBounded := hi.slotsBounded
  config := ⟨f, rfl⟩
  overflow := hi.overflow
  noCounter := hi.noCounter
  atomicIdle := hi.atomicIdle
  locals := hi.locals
  readerLocal := hi.readerLocal
  timeLocal := hi.timeLocal

/-- R37: the power-on state of every well-formed parameter set meets the invariant. -/
theorem inv_powerOn {p : Params} (hp : paramsOk p = true) (t : Nat) : Inv (State.powerOn p t) := by
  obtain ⟨_, hn, _⟩ := paramsOk_conditions hp
  have hpos : 0 < p.n := by omega
  exact ⟨hp, hpos, hpos, rfl, rfl, ⟨p.resetFlag, rfl⟩, Nat.two_pow_pos _, fun _ => rfl, fun _ => rfl,
    rfl, rfl, rfl⟩

theorem Inv.powerOnReset {s : State} (hi : Inv s) : Inv (powerOnReset s) :=
  (inv_powerOn hi.params s.clock).sameBlock ⟨_, _, _, _, _, _, rfl⟩

theorem nowOf_lt (s : State) : nowOf s < 2 ^ s.par.w := Nat.mod_lt _ (Nat.two_pow_pos _)

/-- R29, R30: each micro-step leaves written the locals that its next phase reads. -/
theorem Inv.microMove {s s' : State} (hi : Inv s) (hmode : s.par.pollMode = .interleaved)
    (h : MicroMove s s') : Inv s' := by
  have hidle : ∀ dph : Phase, s.par.pollMode = .atomic → dph = .idle := fun _ ha => by simp [hmode] at ha
  have hcursor : below s.par.n (some s.rd) = true := decide_eq_true hi.reader
  have hlocals := hi.locals
  cases h with
  | start | rest | empty | nonempty | drive =>
    exact hi.rewrite hi.reader (hidle _) rfl hi.readerLocal hi.timeLocal
  | sample => exact hi.rewrite hi.reader (hidle _) rfl hi.readerLocal (decide_eq_true (nowOf_lt s))
  | drained | wait => exact hi.rewrite hi.reader (hidle _) rfl hcursor hi.timeLocal
  | take t ts hp hne ht =>
    exact hi.rewrite hi.reader (hidle _) (by simp [localsReady, ht]) hcursor hi.timeLocal
  | pop r hp hr =>
    have hready : s.tL.isSome = true := by simpa [localsReady, hp, hr] using hlocals
    exact hi.rewrite (inc_lt hi.capacity_pos r) (hidle _) hready hi.readerLocal hi.timeLocal
  | readParity => exact hi.rewrite hi.reader (hidle _) rfl hi.readerLocal hi.timeLocal

theorem Inv.iterate {fuel : Nat} {s s' : State} (hi : Inv s) (hmode : s.par.pollMode = .interleaved)
    (h : iterate fuel s = .next s') : Inv s' := by
  induction fuel generalizing s with
  | zero => cases h
  | succ k ih =>
    obtain ⟨s1, h1, h2⟩ := andThen_eq_next.1 h
    have hm := microStep_move h1
    have hi1 := hi.microMove hmode hm
    split at h2
    · cases h2; exact hi1
    · exact ih hi1 (hm.par ▸ hmode) h2

theorem Inv.advanceLoop {fuel t : Nat} {s s' : State} (hi : Inv s)
    (h : advanceLoop fuel t s = .next s') : Inv s' := by
  induction fuel generalizing s with
  | zero => cases h
  | succ k ih =>
    unfold Machine.advanceLoop at h
    split at h
    · cases h; exact hi
    · split at h
      · cases h
      · split at h
        · exact ih hi.popped h
        · cases h; exact hi

theorem Inv.pollAtomic {s s' : State} (hi : Inv s) (h : pollAtomic s = .next s') : Inv s' := by
  unfold Machine.pollAtomic at h
  split at h
  · split at h
    · cases h; exact hi
    · obtain ⟨s1, h1, h2⟩ := andThen_eq_next.1 h
      cases h2
      exact (hi.advanceLoop h1).driveOut _
  · cases h; exact hi

/-- Every operation of the block keeps the invariant. -/
theorem Inv.effect {loads : Bool} {s s' : State} (hi : Inv s) (h : Effect loads s (.next s')) : Inv s' := by
  cases h with
  | refuse x h => cases h
  | keep h => cases h; exact hi
  | drive level _ h => cases h; exact hi.driveOut level
  | enqueue role _ h => exact hi.enqueue (addW_lt _ _ _) h.symm
  | configure f _ h => cases h; exact hi.configure f
  | powerOn h => cases h; exact hi.powerOnReset
  | pollAtomic _ h => exact hi.pollAtomic h.symm
  | pollInterleaved hmode h => exact hi.iterate hmode h.symm
  | microStep hmode h => exact hi.microMove hmode (microStep_move h.symm)

theorem Inv.takeStimulus {st : Stimulus} {s s' : State} (hi : Inv s)
    (h : takeStimulus st s = .next s') : Inv s' := by
  obtain ⟨s1, hs, he⟩ := takeStimulus_effect st s
  exact (hi.sameBlock hs).effect (h ▸ he)

/-- Settles O49: a step is a stimulus taken after the plan or the draw is advanced. -/
theorem stepKeepsInvariant : Obligations.StepKeepsInvariant :=
  fun s _ hi h => (hi.sameBlock (sameBlock_nextStimulus s)).takeStimulus h

/-- Settles O48: the power-on state of a well-formed set meets the invariant, and `State.reset` is one. -/
theorem invariantAtPowerOn : Obligations.InvariantAtPowerOn :=
  ⟨fun _ t hp => inv_powerOn hp t, inv_powerOn (by decide) 0⟩

/-- Settles O42: each row is the field `State.powerOn` sets, and the flag 0 decodes to the disabled
configuration. -/
theorem powerOnTable : Obligations.PowerOnTable := by
  intro p t
  refine ⟨rfl, rfl, rfl, fun _ => rfl, rfl, fun hflag => ?_, rfl, rfl, rfl, rfl, rfl, rfl, rfl, rfl, rfl⟩
  have hdecode : decodeFlag p p.resetFlag = ⟨false, false, 0⟩ := by rw [hflag]; rfl
  simp [State.powerOn, hdecode]

end Sys2Proof.Safety
end

section
/-! PROOFS. No step faults and the ring range stays written, except across a lost reset (10_state.md R38(b)
and (c)); and what so holds of every reachable state (R175, R234). -/

namespace Sys2Proof.Safety

open Sys2Proof.Machine

/-! ### Answers without a fault -/

/-- The answer is no fault, and the state it goes on from, if any, meets `Q`. -/
def Ensures (Q : State → Prop) (r : Result) : Prop :=
  (∀ s', r = .next s' → Q s') ∧ ∀ f, r ≠ .fault f

theorem ensures_next {Q : State → Prop} {s : State} (h : Q s) : Ensures Q (.next s) :=
  ⟨fun _ hs => by cases hs; exact h, fun _ => nofun⟩

theorem ensures_refused {Q : State → Prop} (x : Refusal) : Ensures Q (.refused x) :=
  ⟨fun _ => nofun, fun _ => nofun⟩

theorem Ensures.mono {P Q : State → Prop} {r : Result} (h : Ensures P r) (himp : ∀ s, P s → Q s) :
    Ensures Q r :=
  ⟨fun s' hs => himp s' (h.1 s' hs), h.2⟩

theorem Ensures.andThen {P Q : State → Prop} {r : Result} {k : State → Result} (h : Ensures P r)
    (hk : ∀ s, P s → Ensures Q (k s)) : Ensures Q (andThen r k) := by
  obtain ⟨hnext, hfault⟩ := h
  cases r with
  | next s => exact hk s (hnext s rfl)
  | fault f => exact absurd rfl (hfault f)
  | refused x => exact ensures_refused x

/-! ### The sound queue -/

/-- R38: the invariant, every visible slot written, and a chosen COMMIT that will pop the reader. -/
structure QueueSound (s : State) : Prop where
  inv : Inv s
  ring : RingWritten s
  pop : PopCoherent s

theorem popCoherent_of_idle {s : State} (h : s.dph = .idle) : PopCoherent s := fun hc => by simp [h] at hc

theorem ringWritten_of_reset {s : State} (hrd : s.rd = 0) (hwr : s.wr = 0) : RingWritten s := by
  intro k hk
  simp [occupancy, hrd, hwr] at hk

theorem ringWritten_of_allWritten {s : State} (hn : 0 < s.par.n) (h : AllWritten s) : RingWritten s :=
  fun _ _ => h _ (Nat.mod_lt _ hn)

theorem QueueSound.sameBlock {s s1 : State} (h : QueueSound s) (hs : SameBlock s s1) : QueueSound s1 := by
  have hi := h.inv.sameBlock hs
  obtain ⟨_, _, _, _, _, _, rfl⟩ := hs
  exact ⟨hi, h.ring, h.pop⟩

theorem QueueSound.driveOut {s : State} (h : QueueSound s) (level : Bool) : QueueSound (driveOut level s) :=
  ⟨h.inv.driveOut level, h.ring, h.pop⟩

/-- A CFG empties the queue; at `DPH = COMMIT` it is the lost reset of R239. -/
theorem QueueSound.configure {s : State} (h : QueueSound s) (hc : s.dph ≠ .commit) (f : Flag) :
    QueueSound (configure f s) :=
  ⟨h.inv.configure f, ringWritten_of_reset rfl rfl, fun hd => absurd hd hc⟩

theorem QueueSound.powerOnReset {s : State} (h : QueueSound s) : QueueSound (powerOnReset s) :=
  ⟨h.inv.powerOnReset, ringWritten_of_reset rfl rfl, popCoherent_of_idle rfl⟩

/-! ### Pushes -/

/-- A slot of the ring range after a push is the one written, or was in the range before. -/
theorem ringWritten_pushed {s : State} (hi : Inv s) (hr : RingWritten s) (t : Nat) :
    RingWritten (advanceWriter { s with slots := Memory.write s.slots s.wr t }) := by
  intro k hk
  have hgrow : k < occupancy s + 1 := by
    rw [occupancy_advanceWriter (s := { s with slots := Memory.write s.slots s.wr t })
      hi.two_le hi.reader hi.writer] at hk
    split at hk
    · exact absurd hk (Nat.not_lt_zero k)
    · exact hk
  simp only [advanceWriter_slots, advanceWriter_rd, advanceWriter_par, Memory.read_write]
  split
  · rfl
  · next hother =>
    have hk' : k ≠ occupancy s := fun he => hother (he ▸ reader_add_occupancy hi.reader hi.writer)
    exact hr k (by omega)

/-- A push that catches up with the reader has filled the array (R127). -/
theorem allWritten_of_catch_up {s : State} (hi : Inv s) (hr : RingWritten s) (t : Nat)
    (hmeet : inc s.par.n s.wr = s.rd) :
    AllWritten (advanceWriter { s with slots := Memory.write s.slots s.wr t }) := by
  intro i hin
  rw [advanceWriter_par] at hin
  obtain ⟨k, hk, rfl⟩ := exists_offset hi.reader hin
  have hfull := occupancy_of_catch_up hi.two_le hi.reader hi.writer hmeet
  simp only [advanceWriter_slots, Memory.read_write]
  split
  · rfl
  · next hother =>
    have hk' : k ≠ occupancy s := fun he => hother (he ▸ reader_add_occupancy hi.reader hi.writer)
    exact hr k (by omega)

theorem QueueSound.pushed {s : State} (h : QueueSound s) {t : Nat} (ht : t < 2 ^ s.par.w) :
    QueueSound (advanceWriter { s with slots := Memory.write s.slots s.wr t }) where
  inv := h.inv.pushed ht
  ring := ringWritten_pushed h.inv h.ring t
  pop hc := by
    obtain ⟨hlocal, -⟩ := h.pop (by simpa using hc)
    refine ⟨by simpa using hlocal, fun hmeet => ?_⟩
    exact allWritten_of_catch_up h.inv h.ring t (by simpa using hmeet.symm)

theorem QueueSound.enqueue {s : State} (h : QueueSound s) {t : Nat} (ht : t < 2 ^ s.par.w) (role : Role) :
    Ensures QueueSound (enqueue role t s) := by
  have h1 := h.pushed ht
  unfold Machine.enqueue
  rw [push_in_range h.inv.writer, andThen_next]
  split
  · rw [push_in_range h1.inv.writer]
    exact ensures_next (h1.pushed (by simpa using ht))
  · exact ensures_next h1

/-! ### Pops -/

theorem head_written {s : State} (hi : Inv s) (hr : RingWritten s) (hne : s.rd ≠ s.wr) :
    ∃ ts, Memory.read s.slots s.rd = some ts := by
  have hsome : occupancy s ≠ 0 := (occupancy_eq_zero_iff hi.reader hi.writer).not.2 hne
  have h0 := hr 0 (Nat.pos_of_ne_zero hsome)
  rw [Nat.add_zero, Nat.mod_eq_of_lt hi.reader] at h0
  exact Option.isSome_iff_exists.1 h0

theorem ringWritten_popped {s : State} (hi : Inv s) (hr : RingWritten s) (hne : s.rd ≠ s.wr) :
    RingWritten { s with rd := inc s.par.n s.rd } := by
  intro k hk
  rw [occupancy_pop hi.reader hi.writer, if_neg hne] at hk
  rw [inc_add_mod]
  exact hr (k + 1) (by omega)

/-- The loop of `ADV` ends before its fuel does and reads written slots only (R124, R34). -/
theorem QueueSound.advanceLoop {fuel : Nat} (t : Nat) {s : State} (h : QueueSound s)
    (hidle : s.dph = .idle) (hfuel : occupancy s < fuel) : Ensures QueueSound (advanceLoop fuel t s) := by
  induction fuel generalizing s with
  | zero => omega
  | succ k ih =>
    unfold Machine.advanceLoop
    split
    · exact ensures_next h
    · next hne =>
      obtain ⟨ts, hts⟩ := head_written h.inv h.ring hne
      have hsome : occupancy s ≠ 0 := (occupancy_eq_zero_iff h.inv.reader h.inv.writer).not.2 hne
      have hpop := occupancy_pop h.inv.reader h.inv.writer
      rw [if_neg hne] at hpop
      simp only [slotRead_ok.2 ⟨h.inv.reader, hts⟩]
      split
      · exact ih ⟨h.inv.popped, ringWritten_popped h.inv h.ring hne, popCoherent_of_idle hidle⟩ hidle
          (by omega)
      · exact ensures_next h

theorem QueueSound.pollAtomic {s : State} (h : QueueSound s) (hidle : s.dph = .idle) :
    Ensures QueueSound (pollAtomic s) := by
  unfold Machine.pollAtomic
  split
  · split
    · exact ensures_next h
    · exact (h.advanceLoop _ hidle (occupancy_lt h.inv.capacity_pos)).andThen
        fun s1 h1 => ensures_next (h1.driveOut _)
  · exact ensures_next h

/-! ### Micro-steps -/

/-- A micro-step leaves the queue as it was, but for COMMIT, whose pop is that of the head, or of a queue the
writer has lapped, where every slot is written. -/
theorem QueueSound.microMove {s s' : State} (h : QueueSound s) (hmode : s.par.pollMode = .interleaved)
    (hm : MicroMove s s') : QueueSound s' := by
  have hi' := h.inv.microMove hmode hm
  cases hm with
  | start | rest | empty | nonempty | sample | drained | wait | readParity | drive =>
    exact ⟨hi', h.ring, nofun⟩
  | take t ts hp hne => exact ⟨hi', h.ring, fun _ => ⟨rfl, fun hmeet => absurd hmeet hne⟩⟩
  | pop r hp hr =>
    obtain ⟨hlocal, hlapped⟩ := h.pop hp
    obtain rfl : s.rd = r := Option.some.inj (hlocal.symm.trans hr)
    refine ⟨hi', ?_, nofun⟩
    by_cases hmeet : s.rd = s.wr
    · exact ringWritten_of_allWritten h.inv.capacity_pos (hlapped hmeet)
    · exact ringWritten_popped h.inv h.ring hmeet

theorem QueueSound.microStep {s : State} (h : QueueSound s) (hmode : s.par.pollMode = .interleaved) :
    Ensures (fun s' => QueueSound s' ∧ MicroMove s s') (microStep s) := by
  refine ⟨fun s' hs => ⟨h.microMove hmode (microStep_move hs), microStep_move hs⟩, fun f hf => ?_⟩
  obtain ⟨-, hne, hnone⟩ := microStep_fault h.inv.locals h.inv.reader hf
  obtain ⟨ts, hts⟩ := head_written h.inv h.ring hne
  simp [hts] at hnone

/-- R172: an iteration ends before the fuel does. -/
theorem QueueSound.iterate {fuel : Nat} {s : State} (h : QueueSound s)
    (hmode : s.par.pollMode = .interleaved) (hfuel : stepsLeft s ≤ fuel) :
    Ensures QueueSound (iterate fuel s) := by
  induction fuel generalizing s with
  | zero => exact absurd (stepsLeft_pos s) (by omega)
  | succ k ih =>
    refine (h.microStep hmode).andThen fun s1 ⟨h1, hm⟩ => ?_
    split
    · exact ensures_next h1
    · next hgo =>
      have hless := hm.stepsLeft_lt h.inv.reader h.inv.writer hgo
      exact ih h1 (hm.par ▸ hmode) (by omega)

/-! ### Steps -/

/-- R38: from a sound queue no operation of the block faults, and all keep it sound but a CFG that comes
between a TEST that chose COMMIT and that COMMIT. -/
theorem QueueSound.effect {loads : Bool} {s : State} {r : Result} (h : QueueSound s)
    (hload : ¬(s.dph = .commit ∧ loads = true)) (he : Effect loads s r) : Ensures QueueSound r := by
  cases he with
  | refuse x hr => exact hr ▸ ensures_refused x
  | keep hr => exact hr ▸ ensures_next h
  | drive level _ hr => exact hr ▸ ensures_next (h.driveOut level)
  | enqueue role _ hr => exact hr ▸ h.enqueue (addW_lt _ _ _) role
  | configure f hl hr => exact hr ▸ ensures_next (h.configure (fun hc => hload ⟨hc, hl⟩) f)
  | powerOn hr => exact hr ▸ ensures_next h.powerOnReset
  | pollAtomic hmode hr => exact hr ▸ h.pollAtomic (h.inv.atomicIdle hmode)
  | pollInterleaved hmode hr => exact hr ▸ h.iterate hmode (stepsLeft_le h.inv.capacity_pos)
  | microStep hmode hr => exact hr ▸ (h.microStep hmode).mono fun _ hs => hs.1

theorem QueueSound.takeStimulus {st : Stimulus} {s : State} (h : QueueSound s)
    (hload : ¬(s.dph = .commit ∧ loadsConfig st.event s = true)) :
    Ensures QueueSound (takeStimulus st s) := by
  obtain ⟨s1, hs, he⟩ := takeStimulus_effect st s
  have h1 := h.sameBlock hs
  obtain ⟨_, _, _, _, _, _, rfl⟩ := hs
  exact h1.effect hload he

/-- R29: in ATOMIC mode no COMMIT is ever chosen, so there is no exception to R38. -/
theorem takeStimulus_atomic {s : State} (st : Stimulus) (hi : Inv s) (hmode : s.par.pollMode = .atomic)
    (hr : RingWritten s) : Ensures QueueSound (takeStimulus st s) := by
  have hidle := hi.atomicIdle hmode
  exact QueueSound.takeStimulus ⟨hi, hr, popCoherent_of_idle hidle⟩ fun ⟨hc, _⟩ => by simp [hidle] at hc

/-- Settles O50: the ATOMIC case of a sound queue. -/
theorem atomicNeverReadsUnwritten : Obligations.AtomicNeverReadsUnwritten :=
  fun _ st hi hmode hr => (takeStimulus_atomic st hi hmode hr).mono fun _ h => h.ring

/-- Settles O51: soundness of the queue, of which the invariant is already known. -/
theorem interleavedKeepsRingWritten : Obligations.InterleavedKeepsRingWritten :=
  fun _ _ hi _ hr hpop hload =>
    (QueueSound.takeStimulus ⟨hi, hr, hpop⟩ hload).mono fun _ h => ⟨h.ring, h.pop⟩

/-! ### Reachable states -/

/-- R175: in delayed mode the output is the reader parity. -/
def OutputFollowsReader (s : State) : Prop :=
  s.en = true → s.hd = true → s.out = decide (s.rd % 2 = 1)

theorem hd_of_direct {s : State} (h : modeOf s = .direct) : s.hd = false := by
  unfold modeOf at h
  split at h
  · cases h
  · split at h
    · assumption
    · cases h

/-- R125, R170: a POLL either changes nothing or drives the parity of the reader it leaves. -/
theorem OutputFollowsReader.pollAtomic {s s' : State} (ho : OutputFollowsReader s)
    (h : pollAtomic s = .next s') : OutputFollowsReader s' := by
  unfold Machine.pollAtomic at h
  split at h
  · split at h
    · cases h; exact ho
    · obtain ⟨s1, -, h2⟩ := andThen_eq_next.1 h
      cases h2
      exact fun _ _ => rfl
  · cases h; exact ho

/-- R175: in ATOMIC mode only a POLL moves the reader, and what else drives the output resets the queue or
is in direct mode. -/
theorem OutputFollowsReader.effect {loads : Bool} {s s' : State} (ho : OutputFollowsReader s)
    (hmode : s.par.pollMode = .atomic) (h : Effect loads s (.next s')) : OutputFollowsReader s' := by
  cases h with
  | refuse x h => cases h
  | keep h => cases h; exact ho
  | drive level hdirect h =>
    cases h
    exact fun _ hhd => absurd (hd_of_direct hdirect) (by simpa using hhd)
  | enqueue role _ h => rw [enqueue_frame h.symm]; exact ho
  | configure f _ h => cases h; exact fun _ _ => rfl
  | powerOn h => cases h; exact fun _ _ => rfl
  | pollAtomic _ h => exact ho.pollAtomic h.symm
  | pollInterleaved hother _ => simp [hmode] at hother
  | microStep hother _ => simp [hmode] at hother

theorem OutputFollowsReader.takeStimulus {st : Stimulus} {s s' : State} (ho : OutputFollowsReader s)
    (hmode : s.par.pollMode = .atomic) (h : takeStimulus st s = .next s') : OutputFollowsReader s' := by
  obtain ⟨s1, hs, he⟩ := takeStimulus_effect st s
  have ho1 : OutputFollowsReader s1 := by
    obtain ⟨_, _, _, _, _, _, rfl⟩ := hs
    exact ho
  exact ho1.effect (hs.par ▸ hmode) (h ▸ he)

/-- R233: no operation of the block writes a parameter. -/
theorem par_of_effect {loads : Bool} {s s' : State} (h : Effect loads s (.next s')) : s'.par = s.par := by
  cases h with
  | refuse x h => cases h
  | keep h | drive _ _ h | configure _ _ h | powerOn h => cases h; rfl
  | enqueue role _ h => rw [enqueue_frame h.symm]
  | pollAtomic _ h => rw [pollAtomic_frame h.symm]
  | pollInterleaved _ h => rw [iterate_frame h.symm]
  | microStep _ h => rw [microStep_frame h.symm]

theorem takeStimulus_par {st : Stimulus} {s s' : State} (h : takeStimulus st s = .next s') :
    s'.par = s.par := by
  obtain ⟨s1, hs, he⟩ := takeStimulus_effect st s
  exact (par_of_effect (h ▸ he)).trans hs.par

/-- Settles O59, by induction on the run: the invariant by O49's lemma, and in ATOMIC mode the ring range by
O50's. -/
theorem reachableStatesAreSafe : Obligations.ReachableStatesAreSafe := by
  intro p s h
  induction h with
  | launch t hp =>
    exact ⟨inv_powerOn hp t, rfl, fun _ => ⟨ringWritten_of_reset rfl rfl, fun _ _ => rfl⟩⟩
  | step st s s' _ hstep ih =>
    obtain ⟨hi, rfl, hsafe⟩ := ih
    refine ⟨hi.takeStimulus hstep, takeStimulus_par hstep, fun hmode => ?_⟩
    obtain ⟨hr, ho⟩ := hsafe hmode
    exact ⟨((takeStimulus_atomic st hi hmode hr).1 s' hstep).ring,
      OutputFollowsReader.takeStimulus ho hmode hstep⟩

end Sys2Proof.Safety
end

section
/-! PROOFS. Times modulo `2^W`, the due test and the cursor increment (00_scope.md R6, 20_memory.md R56 to
R58). -/

namespace Sys2Proof.Machine

/-! ### The two operations on times undo each other -/

/-- `addW` is the remainder of the integer sum, as R6 defines `+_W`. -/
theorem addW_eq_emod (w a b : Nat) : (addW w a b : Int) = ((a : Int) + b) % 2 ^ w := by
  simp [addW]

/-- Going forward from `ts` by the distance to `t` arrives at `t`. -/
theorem addW_subW {w t : Nat} (ts : Nat) (ht : t < 2 ^ w) : addW w ts (subW w t ts) = t := by
  zify
  rw [addW_eq_emod, subW_eq_emod, Int.add_emod_emod, add_sub_cancel]
  exact Int.emod_eq_of_lt (by positivity) (by exact_mod_cast ht)

/-- The distance to the time `d` after `ts` is `d`. -/
theorem subW_addW {w d : Nat} (ts : Nat) (hd : d < 2 ^ w) : subW w (addW w ts d) ts = d := by
  zify
  rw [subW_eq_emod, addW_eq_emod, Int.emod_sub_emod, add_sub_cancel_left]
  exact Int.emod_eq_of_lt (by positivity) (by exact_mod_cast hd)

/-- A distance from `a + b` is the distance from `a`, less `b`. -/
theorem subW_addW_right (w t a b : Nat) : subW w t (addW w a b) = subW w (subW w t a) b := by
  zify
  rw [subW_eq_emod, subW_eq_emod, subW_eq_emod, addW_eq_emod, Int.sub_emod_emod, Int.emod_sub_emod,
    sub_sub]

/-- R6, without the remainder. -/
theorem subW_eq_ite {w a b : Nat} (ha : a < 2 ^ w) (hb : b < 2 ^ w) :
    subW w a b = if b ≤ a then a - b else a + 2 ^ w - b := by
  unfold subW
  rw [Nat.mod_eq_of_lt hb]
  split
  · rw [show a + (2 ^ w - b) = a - b + 2 ^ w by omega, Nat.add_mod_right, Nat.mod_eq_of_lt (by omega)]
  · rw [Nat.mod_eq_of_lt (by omega), Nat.add_sub_assoc hb.le]

/-- One back is all but one of the range forward. -/
theorem subW_one {w : Nat} (hw : 1 ≤ w) (ts : Nat) : subW w ts 1 = addW w ts (2 ^ w - 1) := by
  rw [subW, addW, Nat.one_mod_two_pow hw]

/-! ### The due test -/

theorem due_iff {w ts t : Nat} : due w ts t = true ↔ subW w t ts < 2 ^ (w - 1) := decide_eq_true_iff

/-- R56: the time `d` after `ts` is due exactly when `d` is less than half the range. -/
theorem due_addW {w d : Nat} (ts : Nat) (hd : d < 2 ^ w) :
    due w ts (addW w ts d) = decide (d < 2 ^ (w - 1)) := by
  rw [due, subW_addW ts hd]

/-- R56 as a reading: due means some number of milliseconds, less than half the range, after `ts`. -/
theorem due_iff_exists_addW {w ts t : Nat} (ht : t < 2 ^ w) :
    due w ts t = true ↔ ∃ d, d < 2 ^ (w - 1) ∧ t = addW w ts d := by
  constructor
  · exact fun h => ⟨subW w t ts, due_iff.1 h, (addW_subW ts ht).symm⟩
  · rintro ⟨d, hd, rfl⟩
    have hrange : d < 2 ^ w := hd.trans_le (Nat.pow_le_pow_right (by decide) (Nat.sub_le w 1))
    simpa [due_addW ts hrange] using hd

/-- Settles O12. The corner cases are the distances `0`, `2^W - 1`, `2^(W-1) - 1` and `2^(W-1)`. -/
theorem dueIsForwardHalfRange : Obligations.DueIsForwardHalfRange := by
  intro w ts t hw hts ht
  have hrange : 2 ^ (w - 1) * 2 = 2 ^ w := Nat.two_pow_pred_mul_two hw
  have hhalf : 0 < 2 ^ (w - 1) := Nat.two_pow_pos _
  refine ⟨due_iff, due_iff_exists_addW ht, ?_, ?_, ?_, ?_⟩
  · exact (due_iff_exists_addW hts).2 ⟨0, hhalf, (Nat.mod_eq_of_lt hts).symm⟩
  · rw [subW_one hw, due_addW ts (by omega), decide_eq_false_iff_not]
    omega
  · rw [due_addW ts (by omega), decide_eq_true_iff]
    omega
  · rw [due_addW ts (by omega), decide_eq_false_iff_not]
    omega

/-- R58 in terms of the time `e` since the service: within the window, `e` less `LAT` is below half the range
exactly when it does not wrap. -/
theorem subW_lt_half_iff {w e lat : Nat} (hw : 1 ≤ w) (he : e < 2 ^ w) (hlat : lat < 2 ^ (w - 1))
    (hwindow : e < lat + 2 ^ (w - 1)) : subW w e lat < 2 ^ (w - 1) ↔ lat ≤ e := by
  have hrange : 2 ^ (w - 1) * 2 = 2 ^ w := Nat.two_pow_pred_mul_two hw
  rw [subW_eq_ite he (by omega)]
  split <;> omega

/-- Settles O14: the distance from the target is the time since the service, less `LAT`. -/
theorem targetDueAfterLatency : Obligations.TargetDueAfterLatency := by
  intro w now lat t hw _ _ hlat
  refine ⟨rfl, fun hwindow => ?_⟩
  rw [due_iff, target, subW_addW_right]
  exact subW_lt_half_iff hw (subW_lt w t now) hlat hwindow

/-! ### The cursor increment -/

/-- Settles O13, by the increment's two cases. -/
theorem cursorIncrementWraps : Obligations.CursorIncrementWraps := by
  intro n i hi
  have hlast : i + 1 = n ↔ i = n - 1 := by omega
  refine ⟨rfl, ?_, inc_lt (by omega) i⟩
  simp only [inc_eq_ite hi, hlast]

end Sys2Proof.Machine
end

section
/-! PROOFS. A slot write and the reads after it (20_memory.md R52, R53). -/

namespace Sys2Proof.Machine

/-- R52: a slot of the array that was never written is fault 4. -/
theorem slotRead_unwritten {i : Nat} {s : State} (hi : i < s.par.n) (hm : Memory.read s.slots i = none) :
    slotRead i s = .error (.unwrittenSlotRead i) := by
  simp [slotRead, hi, hm]

/-- Settles O15: the write's one successor, read back at the slot written and at every other. -/
theorem slotWriteThenRead : Obligations.SlotWriteThenRead := by
  intro s i v hi
  refine ⟨⟨_, slotWrite_in_range hi, rfl, ?_, fun j hj => ?_⟩, slotRead_unwritten hi,
    fun u hu => slotRead_ok.2 ⟨hi, hu⟩, rfl⟩
  · exact slotRead_ok.2 ⟨hi, by simp⟩
  · simp [hj]

end Sys2Proof.Machine
end

section
/-! PROOFS. The decoder, the encoder and the opcode table, through the fields of a word and of a byte
(30_encoding.md R70 to R73, R76, R78). -/

namespace Sys2Proof

open Laws.CfgWord (opField_append)

/-! ### The fields of a word and of a byte -/

/-- The values of a three-bit field: `OP` (R71), or `DATA[7:5]` (R73). -/
theorem threeBits_cases (b : BitVec 3) :
    b = 0b000#3 ∨ b = 0b001#3 ∨ b = 0b010#3 ∨ b = 0b011#3 ∨ b = 0b100#3 ∨ b = 0b101#3 ∨ b = 0b110#3 ∨
      b = 0b111#3 := by
  revert b
  decide

/-- Bits of a field are bits of the whole. -/
theorem extractLsb'_extractLsb' {v : Nat} (x : BitVec v) {start len t m : Nat} (h : t + m ≤ len) :
    (x.extractLsb' start len).extractLsb' t m = x.extractLsb' (start + t) m := by
  ext i hi
  simp [show t + i < len by omega, Nat.add_assoc]

/-- A bit vector is known from its high and its low part. -/
theorem eq_iff_extractLsb' {hi lo : Nat} {x y : BitVec (hi + lo)} :
    x = y ↔ x.extractLsb' lo hi = y.extractLsb' lo hi ∧ x.extractLsb' 0 lo = y.extractLsb' 0 lo := by
  refine ⟨fun h => h ▸ ⟨rfl, rfl⟩, fun ⟨hhi, hlo⟩ => ?_⟩
  rw [← BitVec.extractLsb'_append_extractLsb' (x := x), hhi, hlo, BitVec.extractLsb'_append_extractLsb']

@[simp] theorem dataField_append (op : BitVec 3) (d : BitVec 8) : dataField (op ++ d) = d :=
  BitVec.extractLsb'_append_eq_right

/-- R70: a word is its operation before its data. -/
theorem append_dataField {w : CmdWord} {op : BitVec 3} (h : opField w = op) : op ++ dataField w = w :=
  h ▸ BitVec.extractLsb'_append_extractLsb' (w := 3) (len := 8)

/-- The low bits of a word are those of its data. -/
theorem extractLsb'_dataField (w : CmdWord) {len : Nat} (h : len ≤ 8) :
    (dataField w).extractLsb' 0 len = w.extractLsb' 0 len :=
  extractLsb'_extractLsb' w (by omega)

@[simp] theorem byteTop_append (t : BitVec 3) (l : BitVec 5) :
    BitVec.extractLsb' (n := 8) 5 3 (t ++ l) = t := BitVec.extractLsb'_append_eq_left

@[simp] theorem byteLow_append (t : BitVec 3) (l : BitVec 5) :
    BitVec.extractLsb' (n := 8) 0 5 (t ++ l) = l := BitVec.extractLsb'_append_eq_right

/-- Bit 7 of a byte is the first of its top three. -/
theorem extractLsb'_byteTop (c : ConfigByte) : (c.extractLsb' 5 3).extractLsb' 2 1 = c.extractLsb' 7 1 :=
  extractLsb'_extractLsb' c (by decide)

/-! ### The decoder, one equation for each kind of operation -/

/-- R72: an operation that takes no data is its command when `DATA` is zero, and a word of its reserved row
otherwise. -/
def noDataInstr (command : Instr) (reserved : BitVec 8 → Instr) (d : BitVec 8) : Instr :=
  if d = 0x00#8 then command else reserved d

section Decode
variable {w : CmdWord}

theorem decode_of_nop (h : opField w = 0b000#3) : decode w = noDataInstr .nop .nonzeroNop (dataField w) := by
  simp [decode, h, noDataInstr]

theorem decode_of_poll (h : opField w = 0b001#3) : decode w = noDataInstr .poll .nonzeroPoll (dataField w) := by
  simp [decode, h, noDataInstr]

theorem decode_of_rise (h : opField w = 0b010#3) : decode w = noDataInstr .rise .nonzeroRise (dataField w) := by
  simp [decode, h, noDataInstr]

theorem decode_of_fall (h : opField w = 0b011#3) : decode w = noDataInstr .fall .nonzeroFall (dataField w) := by
  simp [decode, h, noDataInstr]

theorem decode_of_pstep (h : opField w = 0b101#3) :
    decode w = noDataInstr .pstep .nonzeroPstep (dataField w) := by
  simp [decode, h, noDataInstr]

theorem decode_of_cfg (h : opField w = 0b100#3) : decode w = decodeConfigByte (dataField w) := by
  simp [decode, h]

/-- R191: the words of the two reserved operations are those with bits 10 and 9 set. -/
theorem opField_reserved_iff : opField w = 0b110#3 ∨ opField w = 0b111#3 ↔ w.extractLsb' 9 2 = 0b11#2 := by
  have hbits : (opField w).extractLsb' 1 2 = w.extractLsb' 9 2 := extractLsb'_extractLsb' w (by decide)
  rw [← hbits]
  rcases threeBits_cases (opField w) with h | h | h | h | h | h | h | h <;> simp [h]

theorem decode_of_reserved (h : w.extractLsb' 9 2 = 0b11#2) : decode w = .reservedOp (w.extractLsb' 0 9) := by
  rcases opField_reserved_iff.2 h with hop | hop <;> simp [decode, hop]

end Decode

/-- R71: the operation of a word, the two reserved ones taken together. -/
theorem operation_cases (w : CmdWord) :
    opField w = 0b000#3 ∨ opField w = 0b001#3 ∨ opField w = 0b010#3 ∨ opField w = 0b011#3 ∨
      opField w = 0b100#3 ∨ opField w = 0b101#3 ∨ w.extractLsb' 9 2 = 0b11#2 := by
  rw [← opField_reserved_iff]
  exact threeBits_cases (opField w)

/-! ### Configuration bytes -/

/-- R73: the rows of a byte, by `DATA[7:5]` and, for `100` to `111`, by bit 7 alone. -/
theorem configByte_cases (c : ConfigByte) :
    c.extractLsb' 5 3 = 0b000#3 ∨ c.extractLsb' 5 3 = 0b001#3 ∨ c.extractLsb' 5 3 = 0b010#3 ∨
      c.extractLsb' 5 3 = 0b011#3 ∨ c.extractLsb' 7 1 = 0b1#1 := by
  rw [← extractLsb'_byteTop]
  rcases threeBits_cases (c.extractLsb' 5 3) with h | h | h | h | h | h | h | h <;> simp [h]

theorem decodeConfigByte_of_high {c : ConfigByte} (h : c.extractLsb' 7 1 = 0b1#1) :
    decodeConfigByte c = .cfgHighTop (c.extractLsb' 0 7) := by
  rw [← extractLsb'_byteTop] at h
  rcases threeBits_cases (c.extractLsb' 5 3) with ht | ht | ht | ht | ht | ht | ht | ht <;>
    simp [decodeConfigByte, ht] at h ⊢

/-- The row a byte decodes to carries that byte. -/
theorem configByteOf_decodeConfigByte (c : ConfigByte) : configByteOf (decodeConfigByte c) = some c := by
  have htop : c.extractLsb' 5 3 ++ c.extractLsb' 0 5 = c := BitVec.extractLsb'_append_extractLsb' (w := 3)
  have hbit : c.extractLsb' 7 1 ++ c.extractLsb' 0 7 = c := BitVec.extractLsb'_append_extractLsb' (w := 1)
  rcases configByte_cases c with h | h | h | h | h
  case inr.inr.inr.inr => simp [decodeConfigByte_of_high h, configByteOf, h ▸ hbit]
  all_goals simp [decodeConfigByte, h, configByteOf, h ▸ htop]

section CarriesByte
variable {i : Instr} {c : ConfigByte}

/-- An instruction that carries a byte is the row the byte decodes to. -/
theorem decodeConfigByte_of_configByteOf (h : configByteOf i = some c) : decodeConfigByte c = i := by
  cases i <;> cases h
  case cfgHighTop c =>
    have hbit : BitVec.extractLsb' (n := 8) 7 1 (0b1#1 ++ c) = 0b1#1 := BitVec.extractLsb'_append_eq_left
    rw [decodeConfigByte_of_high hbit]
    exact congrArg Instr.cfgHighTop BitVec.extractLsb'_append_eq_right
  all_goals simp [decodeConfigByte]

theorem encode_of_configByteOf (h : configByteOf i = some c) : encode i = configWord c := by
  cases i <;> cases h
  case cfgIgn c => exact (Laws.CfgWord.cfgIgn c).2 _ rfl
  case cfgLoadLow c => exact (Laws.CfgWord.cfgLoadLow c).2 _ rfl
  case cfgLoadHigh c => exact (Laws.CfgWord.cfgLoadHigh c).2 _ rfl
  case cfgHighLow c => exact (Laws.CfgWord.cfgHighLow c).2 _ rfl
  case cfgHighTop c => exact (Laws.CfgWord.cfgHighTop c).2 _ rfl

theorem wf_of_configByteOf (h : configByteOf i = some c) : i.wf = true := by
  cases i <;> cases h <;> rfl

/-- R73: every byte is CFG data, so no CFG instruction is lost by its word. -/
theorem decode_encode_of_configByteOf (h : configByteOf i = some c) : decode (encode i) = i := by
  rw [encode_of_configByteOf h, configWord, decode_of_cfg (opField_append _ c), dataField_append,
    decodeConfigByte_of_configByteOf h]

end CarriesByte

/-! ### Decoding the word of an instruction -/

theorem noDataInstr_of_ne {command : Instr} {reserved : BitVec 8 → Instr} {d : BitVec 8}
    (h : (d != 0x00#8) = true) : noDataInstr command reserved d = reserved d :=
  if_neg (bne_iff_ne.1 h)

theorem decode_encode_reservedOp (x : BitVec 9) : decode (encode (.reservedOp x)) = .reservedOp x := by
  have htop : BitVec.extractLsb' (n := 11) 9 2 (0b11#2 ++ x) = 0b11#2 := BitVec.extractLsb'_append_eq_left
  rw [encode, decode_of_reserved htop]
  exact congrArg Instr.reservedOp BitVec.extractLsb'_append_eq_right

/-- Settles O1, by the instruction's row: the CFG rows by the byte they carry, the `NONZERO_DATA` rows by
their operation, where `Instr.wf` excludes the zero data of the command proper. -/
theorem decodeOfEncode : Obligations.DecodeOfEncode := by
  intro i hi
  cases i with
  | nop | poll | rise | fall | pstep => rfl
  | cfgIgn c | cfgLoadLow c | cfgLoadHigh c | cfgHighLow c | cfgHighTop c =>
    exact decode_encode_of_configByteOf rfl
  | reservedOp x => exact decode_encode_reservedOp x
  | nonzeroNop d => simp [encode, decode_of_nop (opField_append _ d), noDataInstr_of_ne hi]
  | nonzeroPoll d => simp [encode, decode_of_poll (opField_append _ d), noDataInstr_of_ne hi]
  | nonzeroRise d => simp [encode, decode_of_rise (opField_append _ d), noDataInstr_of_ne hi]
  | nonzeroFall d => simp [encode, decode_of_fall (opField_append _ d), noDataInstr_of_ne hi]
  | nonzeroPstep d => simp [encode, decode_of_pstep (opField_append _ d), noDataInstr_of_ne hi]

/-! ### Encoding the instruction of a word -/

/-- A word of an operation that takes no data is the word of a well-formed instruction, whatever its data. -/
theorem noDataInstr_wf_encode {w : CmdWord} {op : BitVec 3} {command : Instr} {reserved : BitVec 8 → Instr}
    (h : opField w = op) (hcommand : command.wf = true ∧ encode command = op ++ 0x00#8)
    (hreserved : ∀ d, (reserved d).wf = (d != 0x00#8) ∧ encode (reserved d) = op ++ d) :
    (noDataInstr command reserved (dataField w)).wf = true ∧
      encode (noDataInstr command reserved (dataField w)) = w := by
  have hw : op ++ dataField w = w := append_dataField h
  by_cases hd : dataField w = 0x00#8
  · rw [noDataInstr, if_pos hd]
    exact ⟨hcommand.1, hcommand.2.trans (hd ▸ hw)⟩
  · rw [noDataInstr, if_neg hd]
    exact ⟨(hreserved _).1.trans (bne_iff_ne.2 hd), (hreserved _).2.trans hw⟩

theorem encode_reservedOp {w : CmdWord} (h : w.extractLsb' 9 2 = 0b11#2) :
    encode (.reservedOp (w.extractLsb' 0 9)) = w := by
  rw [encode, ← h]
  exact BitVec.extractLsb'_append_extractLsb' (w := 2) (len := 9)

/-- R70, R78: the instruction of a word is well formed and keeps every bit of the word. -/
theorem decode_wf_encode (w : CmdWord) : (decode w).wf = true ∧ encode (decode w) = w := by
  rcases operation_cases w with h | h | h | h | h | h | h
  · exact decode_of_nop h ▸ noDataInstr_wf_encode h ⟨rfl, rfl⟩ fun _ => ⟨rfl, rfl⟩
  · exact decode_of_poll h ▸ noDataInstr_wf_encode h ⟨rfl, rfl⟩ fun _ => ⟨rfl, rfl⟩
  · exact decode_of_rise h ▸ noDataInstr_wf_encode h ⟨rfl, rfl⟩ fun _ => ⟨rfl, rfl⟩
  · exact decode_of_fall h ▸ noDataInstr_wf_encode h ⟨rfl, rfl⟩ fun _ => ⟨rfl, rfl⟩
  · have hbyte := configByteOf_decodeConfigByte (dataField w)
    rw [decode_of_cfg h]
    exact ⟨wf_of_configByteOf hbyte, (encode_of_configByteOf hbyte).trans (append_dataField h)⟩
  · exact decode_of_pstep h ▸ noDataInstr_wf_encode h ⟨rfl, rfl⟩ fun _ => ⟨rfl, rfl⟩
  · exact decode_of_reserved h ▸ ⟨rfl, encode_reservedOp h⟩

/-! ### The opcode table -/

/-- The table's test of a word, field by field. -/
theorem and_beq_eq_fields (w mask pattern : CmdWord) :
    (w &&& mask == pattern) =
      ((opField w &&& mask.extractLsb' 8 3 == pattern.extractLsb' 8 3) &&
        (dataField w &&& mask.extractLsb' 0 8 == pattern.extractLsb' 0 8)) := by
  rw [Bool.eq_iff_iff, beq_iff_eq, eq_iff_extractLsb' (hi := 3) (lo := 8)]
  simp [opField, dataField, BitVec.extractLsb'_and]

/-- The test of the data in a CFG row, by `DATA[7:5]` and `DATA[4:0]` (R73). -/
theorem and_beq_eq_byteFields (c mask pattern : ConfigByte) :
    (c &&& mask == pattern) =
      ((c.extractLsb' 5 3 &&& mask.extractLsb' 5 3 == pattern.extractLsb' 5 3) &&
        (c.extractLsb' 0 5 &&& mask.extractLsb' 0 5 == pattern.extractLsb' 0 5)) := by
  rw [Bool.eq_iff_iff, beq_iff_eq, eq_iff_extractLsb' (hi := 3) (lo := 5)]
  simp [BitVec.extractLsb'_and]

/-- The mask of a row without don't-care data tests all of `DATA`. -/
theorem and_fullMask (d : BitVec 8) : d &&& 0xFF#8 = d := BitVec.and_allOnes

/-- In the CFG rows `DATA[7:5]` decides which row is the first to match. -/
theorem decodeByTable_of_cfg {w : CmdWord} (h : opField w = 0b100#3) :
    decodeByTable w = some (decode w) := by
  rw [decode_of_cfg h]
  rcases threeBits_cases ((dataField w).extractLsb' 5 3) with ht | ht | ht | ht | ht | ht | ht | ht <;>
    simp [decodeByTable, opcodeTable, and_beq_eq_fields, and_beq_eq_byteFields, h, ht, decodeConfigByte,
      extractLsb'_dataField]

/-- In the other rows the operation decides, with whether `DATA` is zero: the command's row stands above the
`NONZERO_DATA` row of the same operation. -/
theorem decodeByTable_of_not_cfg {w : CmdWord} (h : opField w ≠ 0b100#3) :
    decodeByTable w = some (decode w) := by
  rcases threeBits_cases (opField w) with hop | hop | hop | hop | hop | hop | hop | hop
  case inr.inr.inr.inr.inl => exact absurd hop h
  all_goals
    by_cases hd : dataField w = 0x00#8 <;>
      simp [decodeByTable, opcodeTable, and_beq_eq_fields, and_fullMask, decode, hop, hd]

/-- Settles O2: the table's rows tested through the fields, and every word the encoding of its instruction. -/
theorem everyWordDecodesByTheTable : Obligations.EveryWordDecodesByTheTable := by
  intro w
  refine ⟨?_, decode_wf_encode w⟩
  by_cases h : opField w = 0b100#3
  · exact decodeByTable_of_cfg h
  · exact decodeByTable_of_not_cfg h

/-- Settles O3, by evaluation of the sixteen words. -/
theorem wordsOfEachRowDecode : Obligations.WordsOfEachRowDecode := by
  unfold Obligations.WordsOfEachRowDecode
  decide

end Sys2Proof
end

section
/-! PROOFS. The flag of a configuration byte (30_encoding.md R74). -/

namespace Sys2Proof.Machine

/-- A bit of a bit vector is a digit of its number. -/
theorem getLsbD_eq_decide {v : Nat} (x : BitVec v) (i : Nat) :
    x.getLsbD i = decide (x.toNat / 2 ^ i % 2 = 1) :=
  Nat.testBit_eq_decide_div_mod_eq

/-- For every byte, also below `0x20`: modulo 64, `c - 0x20` is `c + 0x20`. -/
theorem flagOf_toNat (c : ConfigByte) : (flagOf c).toNat = (c.toNat + 0x20) % 64 := by
  have hsub : (c - 0x20#8).toNat = (0xE0 + c.toNat) % 256 := BitVec.toNat_sub c 0x20#8
  rw [flagOf, BitVec.extractLsb'_toNat, Nat.shiftRight_zero, hsub]
  omega

theorem flagOf_enable (c : ConfigByte) : (flagOf c).getLsbD 5 = !c.getLsbD 5 := by
  rw [getLsbD_eq_decide, getLsbD_eq_decide, flagOf_toNat, ← decide_not, decide_eq_decide]
  omega

theorem flagOf_low (c : ConfigByte) : (flagOf c).extractLsb' 0 5 = c.extractLsb' 0 5 := by
  apply BitVec.eq_of_toNat_eq
  rw [BitVec.extractLsb'_toNat, BitVec.extractLsb'_toNat, flagOf_toNat, Nat.shiftRight_zero,
    Nat.shiftRight_zero]
  omega

/-- Settles O11, through the number of the flag and its binary digits. -/
theorem flagOfByte : Obligations.FlagOfByte := by
  intro c hc
  have hflag : (flagOf c).toNat = (c.toNat - 0x20) % 64 := by
    rw [flagOf_toNat]
    omega
  refine ⟨flagOf_enable c, flagOf_low c, hflag, fun hload => ⟨by omega, ?_⟩⟩
  rw [getLsbD_eq_decide, getLsbD_eq_decide, decide_eq_decide, hflag]
  omega

end Sys2Proof.Machine
end

section
/-! PROOFS. A step that presents a command word (30_encoding.md R70, R83). -/

namespace Sys2Proof.Machine

/-- With well-formed parameters a stimulus is its event at the clock value it brings (R215). -/
theorem takeStimulus_of_paramsOk {s : State} (h : paramsOk s.par = true) (st : Stimulus) :
    takeStimulus st s = runEvent st.event (advanceClock st.elapsed s) :=
  if_pos h

/-- Settles O46: the planned entry is taken, and its event is the command's `exec`. -/
theorem stepRunsDecodedCommand : Obligations.StepRunsDecodedCommand := by
  intro s dt w rest hpar hplan
  rw [step_planned hplan]
  exact takeStimulus_of_paramsOk (s := { s with schedule := rest }) hpar _

end Sys2Proof.Machine
end

section
/-! PROOFS. The configuration decoder through the number of a flag: its three paths, and what they give for
every parameter set (41_config_decoder.md R100 to R108). -/

namespace Sys2Proof.Machine

/-! The factors of the exponential mode (R105, R106). -/

/-- R105: the enumeration of R105 is the power of two (90_conflicts.md C1). -/
theorem fractionOf_eq_two_pow (r : BitVec 2) : fractionOf r = 2 ^ r.toNat := by
  revert r
  decide

theorem exponentOf_eq_ite (p : Params) (e : BitVec 2) :
    exponentOf p e = if e.toNat = 0 then p.exp0Exponent else 10 ^ e.toNat := by
  have hvalues : e = 0#2 ∨ e = 1#2 ∨ e = 2#2 ∨ e = 3#2 := by
    revert e
    decide
  rcases hvalues with rfl | rfl | rfl | rfl <;> rfl

theorem exponentOf_pos {p : Params} (h : 1 ≤ p.exp0Exponent) (e : BitVec 2) : 0 < exponentOf p e := by
  rw [exponentOf_eq_ite]
  split
  · exact h
  · positivity

theorem exponentOf_le (p : Params) (e : BitVec 2) : exponentOf p e ≤ max p.exp0Exponent 1000 := by
  rw [exponentOf_eq_ite]
  split
  · exact le_max_left ..
  · have hpow : 10 ^ e.toNat ≤ 10 ^ 3 := Nat.pow_le_pow_right (by decide) (Nat.le_of_lt_succ e.isLt)
    exact hpow.trans (le_max_right ..)

/-! The fields of a flag as digits of its number. -/

theorem flag_delay_toNat (f : Flag) : (f.extractLsb' 0 4).toNat = f.toNat % 16 := by
  rw [BitVec.extractLsb'_toNat, Nat.shiftRight_zero]

theorem flag_delay_eq_zero_iff (f : Flag) : f.extractLsb' 0 4 = 0#4 ↔ f.toNat % 16 = 0 := by
  rw [← BitVec.toNat_inj, flag_delay_toNat]
  rfl

theorem flag_linear_iff (f : Flag) : f.getLsbD 4 = false ↔ f.toNat / 16 % 2 = 0 := by
  rw [getLsbD_eq_decide, decide_eq_false_iff_not]
  omega

theorem flag_exp_toNat (f : Flag) : (f.extractLsb' 2 2).toNat = f.toNat / 4 % 4 := by
  rw [BitVec.extractLsb'_toNat, Nat.shiftRight_eq_div_pow]

theorem flag_frac_toNat (f : Flag) : (f.extractLsb' 0 2).toNat = f.toNat % 4 := by
  rw [BitVec.extractLsb'_toNat, Nat.shiftRight_zero]

/-! The three paths of `DECODE` (R102, R103, R104), and the enable bit of all of them (R101). -/

theorem decodeFlag_direct (p : Params) {f : Flag} (hdelay : f.toNat % 16 = 0) :
    decodeFlag p f = ⟨f.getLsbD 5, false, 0⟩ :=
  if_pos ((flag_delay_eq_zero_iff f).2 hdelay)

theorem decodeFlag_linear (p : Params) {f : Flag} (hdelay : f.toNat % 16 ≠ 0) (hlinear : f.toNat / 16 % 2 = 0) :
    decodeFlag p f = ⟨f.getLsbD 5, true, p.delayFactor * (f.toNat % 16)⟩ := by
  rw [decodeFlag, if_neg (mt (flag_delay_eq_zero_iff f).1 hdelay), if_pos ((flag_linear_iff f).2 hlinear),
    flag_delay_toNat]

theorem decodeFlag_exponential (p : Params) {f : Flag} (hdelay : f.toNat % 16 ≠ 0)
    (hexp : f.toNat / 16 % 2 = 1) :
    decodeFlag p f = ⟨f.getLsbD 5, true, exponentOf p (f.extractLsb' 2 2) * 2 ^ (f.toNat % 4)⟩ := by
  have hnotLinear : ¬ f.getLsbD 4 = false := by
    rw [flag_linear_iff]
    omega
  rw [decodeFlag, if_neg (mt (flag_delay_eq_zero_iff f).1 hdelay), if_neg hnotLinear, fractionOf_eq_two_pow,
    flag_frac_toNat]

/-- The three paths cover every flag. -/
theorem decodeFlag_cases (p : Params) (f : Flag) :
    (f.toNat % 16 = 0 ∧ decodeFlag p f = ⟨f.getLsbD 5, false, 0⟩) ∨
    (f.toNat % 16 ≠ 0 ∧ f.toNat / 16 % 2 = 0 ∧
      decodeFlag p f = ⟨f.getLsbD 5, true, p.delayFactor * (f.toNat % 16)⟩) ∨
    (f.toNat % 16 ≠ 0 ∧ f.toNat / 16 % 2 = 1 ∧
      decodeFlag p f = ⟨f.getLsbD 5, true, exponentOf p (f.extractLsb' 2 2) * 2 ^ (f.toNat % 4)⟩) := by
  by_cases hdelay : f.toNat % 16 = 0
  · exact .inl ⟨hdelay, decodeFlag_direct p hdelay⟩
  · rcases Nat.mod_two_eq_zero_or_one (f.toNat / 16) with hlinear | hexp
    · exact .inr (.inl ⟨hdelay, hlinear, decodeFlag_linear p hdelay hlinear⟩)
    · exact .inr (.inr ⟨hdelay, hexp, decodeFlag_exponential p hdelay hexp⟩)

theorem decodeFlag_enabled (p : Params) (f : Flag) :
    (decodeFlag p f).enabled = decide (32 ≤ f.toNat) := by
  have hbit : f.getLsbD 5 = decide (32 ≤ f.toNat) := by
    have := f.isLt
    rw [getLsbD_eq_decide, decide_eq_decide]
    omega
  rcases decodeFlag_cases p f with ⟨-, heq⟩ | ⟨-, -, heq⟩ | ⟨-, -, heq⟩ <;> rw [heq, hbit]

/-! The clauses of R108. -/

theorem decodeFlag_hasDelay_eq_false_iff (p : Params) (f : Flag) :
    (decodeFlag p f).hasDelay = false ↔ f.toNat % 16 = 0 := by
  rcases decodeFlag_cases p f with ⟨hdelay, heq⟩ | ⟨hdelay, -, heq⟩ | ⟨hdelay, -, heq⟩ <;> simp [heq, hdelay]

/-- The direct path of `FEXP = 0` is the case `LIN = 0` of the same product. -/
theorem decodeFlag_latencyMs_of_linear (p : Params) {f : Flag} (hlinear : f.toNat / 16 % 2 = 0) :
    (decodeFlag p f).latencyMs = p.delayFactor * (f.toNat % 16) := by
  by_cases hdelay : f.toNat % 16 = 0
  · rw [decodeFlag_direct p hdelay, hdelay, Nat.mul_zero]
  · rw [decodeFlag_linear p hdelay hlinear]

theorem decodeFlag_latencyMs_of_exponential (p : Params) {f : Flag} (hexp : f.toNat / 16 % 2 = 1)
    (hdelay : f.toNat % 16 ≠ 0) :
    (decodeFlag p f).latencyMs =
      (if f.toNat / 4 % 4 = 0 then p.exp0Exponent else 10 ^ (f.toNat / 4 % 4)) * 2 ^ (f.toNat % 4) := by
  rw [decodeFlag_exponential p hdelay hexp, exponentOf_eq_ite, flag_exp_toNat]

/-- With both factors positive, neither product can be 0. -/
theorem decodeFlag_latencyMs_eq_zero_iff {p : Params} (hfactor : 1 ≤ p.delayFactor)
    (hexp0 : 1 ≤ p.exp0Exponent) (f : Flag) :
    (decodeFlag p f).latencyMs = 0 ↔ (decodeFlag p f).hasDelay = false := by
  rcases decodeFlag_cases p f with ⟨-, heq⟩ | ⟨hdelay, -, heq⟩ | ⟨-, -, heq⟩
  · simp [heq]
  · have hpos : p.delayFactor * (f.toNat % 16) ≠ 0 := Nat.mul_ne_zero (by omega) hdelay
    simp [heq, hpos]
  · have hpos := exponentOf_pos hexp0 (f.extractLsb' 2 2)
    simp [heq, hpos.ne']

/-- The flags of R108 (e)'s exception, where the exponent is the parameter. -/
theorem decodeFlag_of_exp0Exponent_eq_zero {p : Params} {f : Flag} (hexp0 : p.exp0Exponent = 0)
    (hf : f.toNat % 32 = 17 ∨ f.toNat % 32 = 18 ∨ f.toNat % 32 = 19) :
    (decodeFlag p f).hasDelay = true ∧ (decodeFlag p f).latencyMs = 0 := by
  have hmode : f.toNat / 16 % 2 = 1 := by omega
  have hdelay : f.toNat % 16 ≠ 0 := by omega
  have hexp : f.toNat / 4 % 4 = 0 := by omega
  constructor
  · rw [decodeFlag_exponential p hdelay hmode]
  · rw [decodeFlag_latencyMs_of_exponential p hmode hdelay, if_pos hexp, hexp0, Nat.zero_mul]

/-- Settles O8, clause by clause. -/
theorem decodeProperties : Obligations.DecodeProperties := fun p f =>
  ⟨decodeFlag_enabled p f, decodeFlag_hasDelay_eq_false_iff p f, decodeFlag_latencyMs_of_linear p,
    decodeFlag_latencyMs_of_exponential p, fun hfactor hexp0 => decodeFlag_latencyMs_eq_zero_iff hfactor hexp0 f,
    decodeFlag_of_exp0Exponent_eq_zero⟩

/-- Settles O9: the largest product of each path is one of those R5 bounds. -/
theorem latencyBelowHalfRange : Obligations.LatencyBelowHalfRange := by
  intro p f hpar
  obtain ⟨-, -, -, -, hlinear, hpow, hexp0, -⟩ := paramsOk_conditions hpar
  rcases decodeFlag_cases p f with ⟨-, heq⟩ | ⟨-, -, heq⟩ | ⟨-, -, heq⟩ <;> rw [heq]
  · exact Nat.two_pow_pos _
  · calc
      p.delayFactor * (f.toNat % 16) ≤ p.delayFactor * 15 := Nat.mul_le_mul_left _ (by omega)
      _ < 2 ^ (p.w - 1) := by omega
  · have hfraction : 2 ^ (f.toNat % 4) ≤ 2 ^ 3 := Nat.pow_le_pow_right (by decide) (by omega)
    calc
      exponentOf p (f.extractLsb' 2 2) * 2 ^ (f.toNat % 4) ≤ max p.exp0Exponent 1000 * 2 ^ 3 :=
        Nat.mul_le_mul (exponentOf_le p _) hfraction
      _ < 2 ^ (p.w - 1) := by omega

/-- Settles O10 by evaluating the table once, at `N = 0`: `DECODE` does not read the slot count. -/
theorem latencyTable : Obligations.LatencyTable := by
  intro n
  have hcount : ∀ f, decodeFlag (Params.standard n) f = decodeFlag (Params.standard 0) f := fun _ => rfl
  simp only [hcount]
  decide

end Sys2Proof.Machine
end

section
/-! PROOFS. What pushes and enqueues leave behind: the writer, the visible entries and the overflow count
(42_scheduler.md R120 to R123, R127, R128). -/

namespace Sys2Proof.Safety

open Sys2Proof.Machine

/-- Within one turn of the ring, different offsets are different slots. -/
theorem offset_injective {n i j k : Nat} (hj : j < n) (hk : k < n) (h : (i + j) % n = (i + k) % n) : j = k :=
  (Nat.ModEq.add_left_cancel' i h).eq_of_lt_of_lt hj hk

/-- R57, R5: `N` is even, so the wrap also flips the parity of a cursor. -/
theorem inc_mod_two {n : Nat} (heven : n % 2 = 0) (i : Nat) : inc n i % 2 = (i + 1) % 2 :=
  Nat.mod_mod_of_dvd _ (Nat.dvd_of_mod_eq_zero heven)

/-- One before the slot after `i` is `i`. -/
theorem inc_pred {n i : Nat} (hi : i < n) : (inc n i + n - 1) % n = i := by
  rw [inc, Nat.add_sub_assoc (by omega), Nat.mod_add_mod, show i + 1 + (n - 1) = i + n by omega,
    Nat.add_mod_right, Nat.mod_eq_of_lt hi]

/-! ### One push -/

/-- The state a push of `t` leaves where the writer is in range (R121). -/
def afterPush (t : Nat) (s : State) : State :=
  advanceWriter { s with slots := Memory.write s.slots s.wr t }

theorem push_eq_afterPush (t : Nat) {s : State} (hwr : s.wr < s.par.n) : push t s = .next (afterPush t s) :=
  push_in_range hwr

@[simp] theorem afterPush_par (t : Nat) (s : State) : (afterPush t s).par = s.par := advanceWriter_par _
@[simp] theorem afterPush_rd (t : Nat) (s : State) : (afterPush t s).rd = s.rd := advanceWriter_rd _
@[simp] theorem afterPush_wr (t : Nat) (s : State) : (afterPush t s).wr = inc s.par.n s.wr := advanceWriter_wr _
@[simp] theorem afterPush_slots (t : Nat) (s : State) : (afterPush t s).slots = Memory.write s.slots s.wr t :=
  advanceWriter_slots _
@[simp] theorem afterPush_dph (t : Nat) (s : State) : (afterPush t s).dph = s.dph := advanceWriter_dph _
@[simp] theorem afterPush_rL (t : Nat) (s : State) : (afterPush t s).rL = s.rL := advanceWriter_rL _

/-- R128: the slot before the writer holds the time pushed last. -/
theorem read_last_afterPush (t : Nat) {s : State} (hwr : s.wr < s.par.n) :
    Memory.read (afterPush t s).slots (((afterPush t s).wr + s.par.n - 1) % s.par.n) = some t := by
  simp [inc_pred hwr]

@[simp] theorem length_visible (s : State) : (visible s).length = occupancy s := by simp [visible]

theorem visible_eq_nil_iff {s : State} : visible s = [] ↔ occupancy s = 0 := by
  rw [← length_visible, List.length_eq_zero_iff]

section Push

variable {s : State} (hn : 2 ≤ s.par.n) (hrd : s.rd < s.par.n) (hwr : s.wr < s.par.n)
include hn hrd hwr

/-- R123: the writer catches up with the reader exactly from `N - 1` entries. -/
theorem inc_writer_eq_reader_iff : inc s.par.n s.wr = s.rd ↔ occupancy s + 1 = s.par.n := by
  refine ⟨occupancy_of_catch_up hn hrd hwr, fun hfull => ?_⟩
  rw [occupancy_eq_ite hrd hwr] at hfull
  rw [inc_eq_ite hwr]
  split_ifs at hfull ⊢ <;> omega

theorem occupancy_afterPush (t : Nat) :
    occupancy (afterPush t s) = if occupancy s + 1 = s.par.n then 0 else occupancy s + 1 := by
  simp only [← inc_writer_eq_reader_iff hn hrd hwr]
  exact occupancy_advanceWriter (s := { s with slots := Memory.write s.slots s.wr t }) hn hrd hwr

/-- R127 (a) and (b): a push appends its time, or empties a queue of `N - 1` entries. -/
theorem visible_afterPush (t : Nat) :
    visible (afterPush t s) = if occupancy s + 1 = s.par.n then [] else visible s ++ [some t] := by
  have hocc := occupancy_afterPush hn hrd hwr t
  split <;> rename_i hfull
  · rwa [if_pos hfull, ← visible_eq_nil_iff] at hocc
  · rw [if_neg hfull] at hocc
    have hlast : (s.rd + occupancy s) % s.par.n = s.wr := reader_add_occupancy hrd hwr
    have hlt : occupancy s < s.par.n := occupancy_lt (by omega)
    have hold : ∀ k ∈ List.range (occupancy s), Memory.read (afterPush t s).slots ((s.rd + k) % s.par.n) =
        Memory.read s.slots ((s.rd + k) % s.par.n) := by
      intro k hk
      have hk := List.mem_range.1 hk
      have hother : (s.rd + k) % s.par.n ≠ s.wr := fun he =>
        hk.ne (offset_injective (hk.trans hlt) hlt (he.trans hlast.symm))
      simp [hother]
    simp only [visible, hocc, List.range_succ, List.map_append, afterPush_rd, afterPush_par,
      List.map_congr_left hold, List.map_singleton, hlast]
    simp

/-- R123: the count saturates, and grows exactly when the push found `N - 1` entries. -/
theorem ovfCount_afterPush (t : Nat) :
    (afterPush t s).ovfCount = if s.par.hasOvfCounter = true ∧ occupancy s + 1 = s.par.n
      then min (s.ovfCount + 1) (2 ^ s.par.ovfWidth - 1) else s.ovfCount := by
  simp [afterPush, advanceWriter, countOverflow_ovfCount, inc_writer_eq_reader_iff hn hrd hwr]

end Push

/-- Settles O17: the push in its two cases. -/
theorem pushAppendsOrEmpties : Obligations.PushAppendsOrEmpties := by
  intro s t hp hrd hwr
  obtain ⟨-, hn, -⟩ := paramsOk_conditions hp
  refine ⟨_, push_eq_afterPush t hwr, afterPush_rd t s, afterPush_wr t s, fun hroom => ?_, fun hlast => ?_⟩
  · rw [visible_afterPush hn hrd hwr, if_neg (by omega)]
  · have hfull : occupancy s + 1 = s.par.n := by omega
    rw [visible_afterPush hn hrd hwr, if_pos hfull, afterPush_wr, afterPush_rd]
    exact ⟨(inc_writer_eq_reader_iff hn hrd hwr).2 hfull, rfl⟩

/-! ### A list of pushes -/

/-- The state that pushes of `ts`, in order, leave. -/
def afterPushes (ts : List Nat) (s : State) : State := ts.foldl (fun s t => afterPush t s) s

@[simp] theorem afterPushes_nil (s : State) : afterPushes [] s = s := rfl

@[simp] theorem afterPushes_cons (t : Nat) (ts : List Nat) (s : State) :
    afterPushes (t :: ts) s = afterPushes ts (afterPush t s) := rfl

/-- Pushes from a writer in range all land (R121). -/
theorem foldl_push (ts : List Nat) {s : State} (hwr : s.wr < s.par.n) :
    ts.foldl (fun r t => andThen r (push t)) (.next s) = .next (afterPushes ts s) := by
  induction ts generalizing s with
  | nil => rfl
  | cons t ts ih =>
    rw [List.foldl_cons, andThen_next, push_eq_afterPush t hwr]
    exact ih (by simpa using inc_lt (Nat.zero_lt_of_lt hwr) s.wr)

/-- Pushes do not move the reader, and leave the dispatcher's phase and local alone. -/
theorem afterPushes_frame (ts : List Nat) (s : State) :
    (afterPushes ts s).par = s.par ∧ (afterPushes ts s).rd = s.rd ∧ (afterPushes ts s).dph = s.dph ∧
      (afterPushes ts s).rL = s.rL := by
  induction ts generalizing s with
  | nil => exact ⟨rfl, rfl, rfl, rfl⟩
  | cons t ts ih => simpa using ih (afterPush t s)

/-- R127 (a) to (c) at once: of the entries there were and those pushed, in order, the newest
`(k0 + m) mod N` are visible. -/
theorem visible_afterPushes (ts : List Nat) {s : State} (hn : 2 ≤ s.par.n) (hrd : s.rd < s.par.n)
    (hwr : s.wr < s.par.n) :
    visible (afterPushes ts s) = (visible s ++ ts.map some).drop
      (occupancy s + ts.length - (occupancy s + ts.length) % s.par.n) := by
  induction ts generalizing s with
  | nil => simp [Nat.mod_eq_of_lt (occupancy_lt (s := s) (by omega))]
  | cons t ts ih =>
    have hocc := occupancy_afterPush hn hrd hwr t
    have hvis := visible_afterPush hn hrd hwr t
    have ih := ih (s := afterPush t s) (by simpa using hn) (by simpa using hrd)
      (by simpa using inc_lt (by omega) s.wr)
    have hsplit : visible s ++ (t :: ts).map some = visible s ++ [some t] ++ ts.map some := by simp
    have hcount : occupancy s + (t :: ts).length = occupancy s + 1 + ts.length := by
      rw [List.length_cons]
      omega
    rw [afterPush_par] at ih
    rw [afterPushes_cons, ih, hvis, hocc, hsplit, hcount]
    split <;> rename_i hfull
    · have hlength : (visible s ++ [some t]).length = s.par.n := by simpa using hfull
      rw [hfull, Nat.add_mod_left, Nat.add_sub_assoc (Nat.mod_le _ _), ← hlength,
        List.drop_length_add_append, Nat.zero_add, List.nil_append]
    · rfl

/-- Settles O18: from `N` entries on, what is dropped covers every entry there was before the pushes. -/
theorem overflowKeepsNewest : Obligations.OverflowKeepsNewest := by
  intro ts s hp hrd hwr hfull
  obtain ⟨-, hn, -⟩ := paramsOk_conditions hp
  obtain ⟨-, hreader, -, -⟩ := afterPushes_frame ts s
  refine ⟨_, foldl_push ts hwr, hreader, ?_⟩
  have hocc : occupancy s < s.par.n := occupancy_lt (by omega)
  have hrem : (occupancy s + ts.length) % s.par.n ≤ ts.length := by
    have hlt : (occupancy s + ts.length) % s.par.n < s.par.n := Nat.mod_lt _ (by omega)
    have hle : (occupancy s + ts.length) % s.par.n ≤ occupancy s + ts.length - s.par.n := by
      rw [Nat.mod_eq_sub_mod hfull]
      exact Nat.mod_le _ _
    omega
  rw [visible_afterPushes ts hn hrd hwr, List.map_drop, Nat.add_sub_assoc hrem, ← length_visible,
    List.drop_length_add_append]

/-! ### An enqueue -/

/-- What an enqueue of `t` pushes: its time, twice when the writer has the other role's parity (R120,
R122). -/
def enqueuedTimes (role : Role) (t : Nat) (s : State) : List Nat :=
  if s.wr % 2 = roleNumber role then [t] else [t, t]

theorem enqueuedTimes_of_parity {role : Role} {s : State} (t : Nat) (h : s.wr % 2 = roleNumber role) :
    enqueuedTimes role t s = [t] := if_pos h

theorem enqueuedTimes_of_other_parity {role : Role} {s : State} (t : Nat) (h : s.wr % 2 ≠ roleNumber role) :
    enqueuedTimes role t s = [t, t] := if_neg h

theorem roleNumber_lt_two (role : Role) : roleNumber role < 2 := by cases role <;> decide

/-- R122: after the first push a compensation write is needed exactly when the writer had the other role's
parity. -/
theorem needsCompensation_inc {n : Nat} (heven : n % 2 = 0) (role : Role) (wr : Nat) :
    needsCompensation role (inc n wr) = true ↔ wr % 2 ≠ roleNumber role := by
  have hrole := roleNumber_lt_two role
  rw [needsCompensation, decide_eq_true_iff, inc_mod_two heven]
  omega

theorem enqueue_eq_afterPushes (role : Role) (t : Nat) {s : State} (heven : s.par.n % 2 = 0)
    (hwr : s.wr < s.par.n) : enqueue role t s = .next (afterPushes (enqueuedTimes role t s) s) := by
  rw [enqueue, push_eq_afterPush t hwr, andThen_next, afterPush_wr]
  by_cases hpar : s.wr % 2 = roleNumber role
  · rw [if_neg ((needsCompensation_inc heven role s.wr).not.2 (not_not.2 hpar)),
      enqueuedTimes_of_parity t hpar]
    rfl
  · rw [if_pos ((needsCompensation_inc heven role s.wr).2 hpar), enqueuedTimes_of_other_parity t hpar]
    exact push_eq_afterPush t (by simpa using inc_lt (Nat.zero_lt_of_lt hwr) s.wr)

/-- R128: the last push of an enqueue starts from a writer that has the parity of the role. -/
theorem enqueue_ends_at_parity (role : Role) (t : Nat) {s : State} (heven : s.par.n % 2 = 0)
    (hwr : s.wr < s.par.n) :
    ∃ s1, s1.par = s.par ∧ s1.wr < s.par.n ∧ s1.wr % 2 = roleNumber role ∧
      enqueue role t s = .next (afterPush t s1) := by
  rw [enqueue_eq_afterPushes role t heven hwr]
  by_cases hpar : s.wr % 2 = roleNumber role
  · exact ⟨s, rfl, hwr, hpar, by rw [enqueuedTimes_of_parity t hpar]; rfl⟩
  · have hrole := roleNumber_lt_two role
    refine ⟨afterPush t s, afterPush_par t s, ?_, ?_, by rw [enqueuedTimes_of_other_parity t hpar]; rfl⟩
    · simpa using inc_lt (Nat.zero_lt_of_lt hwr) s.wr
    · rw [afterPush_wr, inc_mod_two heven]
      omega

/-- R8: a slot's role is the one whose number is the parity of its index. -/
theorem slotRole_eq {role : Role} {i : Nat} (h : i % 2 = roleNumber role) : slotRole i = role := by
  cases role <;> simp_all [slotRole, roleNumber]

/-- Settles O16: the last push writes at the parity of the role and leaves the writer one further. -/
theorem enqueueAlignsParity : Obligations.EnqueueAlignsParity := by
  intro s role t hp hwr
  obtain ⟨heven, -⟩ := paramsOk_conditions hp
  obtain ⟨s1, hpar, hwr1, hrole, henq⟩ := enqueue_ends_at_parity role t heven hwr
  rw [← hpar] at heven hwr1 ⊢
  refine ⟨_, henq, ?_, ?_, read_last_afterPush t hwr1, ?_⟩
  · simpa using inc_lt (Nat.zero_lt_of_lt hwr1) s1.wr
  · rw [afterPush_wr, inc_mod_two heven, Nat.add_mod, hrole]
  · rw [afterPush_wr, inc_pred hwr1]
    exact slotRole_eq hrole

/-- R123: of the two pushes of a compensated enqueue at most one counts: if the first catches up with the
reader, the second finds an empty queue. -/
theorem ovfCount_enqueue (role : Role) (t : Nat) {s : State} (hn : 2 ≤ s.par.n) (hrd : s.rd < s.par.n)
    (hwr : s.wr < s.par.n) :
    (afterPushes (enqueuedTimes role t s) s).ovfCount =
      if s.par.hasOvfCounter = true ∧ (occupancy s + 1 = s.par.n ∨
          (occupancy s + 2 = s.par.n ∧ s.wr % 2 ≠ roleNumber role))
      then min (s.ovfCount + 1) (2 ^ s.par.ovfWidth - 1) else s.ovfCount := by
  have hfirst := ovfCount_afterPush hn hrd hwr t
  by_cases hpar : s.wr % 2 = roleNumber role
  · rw [enqueuedTimes_of_parity t hpar]
    simpa [hpar] using hfirst
  · have hsecond := ovfCount_afterPush (s := afterPush t s) (by simpa using hn) (by simpa using hrd)
      (by simpa using inc_lt (by omega) s.wr) t
    rw [occupancy_afterPush hn hrd hwr, hfirst] at hsecond
    simp only [afterPush_par] at hsecond
    rw [enqueuedTimes_of_other_parity t hpar]
    refine hsecond.trans ?_
    by_cases hfull : occupancy s + 1 = s.par.n
    · have hmore : ¬ 0 + 1 = s.par.n := by omega
      simp [hfull, hmore]
    · simp [hfull, hpar]

/-- Settles O19: `N - 1` and `N - 2` entries, read as one and two short of `N`. -/
theorem overflowCountedOnce : Obligations.OverflowCountedOnce := by
  intro s role t hp hrd hwr
  obtain ⟨heven, hn, -⟩ := paramsOk_conditions hp
  have hone : occupancy s = s.par.n - 1 ↔ occupancy s + 1 = s.par.n := by omega
  have htwo : occupancy s = s.par.n - 2 ↔ occupancy s + 2 = s.par.n := by omega
  have hmeet := inc_writer_eq_reader_iff hn hrd hwr
  have hcount := ovfCount_enqueue role t hn hrd hwr
  refine ⟨⟨_, push_eq_afterPush t hwr, ?_, ?_⟩, ⟨_, enqueue_eq_afterPushes role t heven hwr, ?_, ?_⟩⟩
  · simp only [afterPush_wr, afterPush_rd, hone, hmeet]
  · simp only [afterPush_wr, afterPush_rd, hmeet]
    exact ovfCount_afterPush hn hrd hwr t
  · rw [hcount]
    split <;> omega
  · simp only [hone, htwo]
    exact hcount

end Sys2Proof.Safety
end

section
/-! PROOFS. Pops: the reader moves past visible entries and nothing else of the queue changes, in the loop of
`ADV` and in the dispatcher's micro-steps (42_scheduler.md R124, R129, 44_dispatcher.md R166, R167). -/

namespace Sys2Proof.Safety

open Sys2Proof.Machine

/-! ### Moving the reader -/

/-- From `s` to `s'` the reader has moved past `p` visible entries, and the queue is as it was otherwise. -/
structure Pops (p : Nat) (s s' : State) : Prop where
  par : s'.par = s.par
  writer : s'.wr = s.wr
  slots : s'.slots = s.slots
  reader : s'.rd = (s.rd + p) % s.par.n
  shown : p ≤ occupancy s

/-- A step that leaves reader, writer and slots alone pops nothing. -/
theorem Pops.none {s s' : State} (hrd : s.rd < s.par.n) (hpar : s'.par = s.par) (hreader : s'.rd = s.rd)
    (hwriter : s'.wr = s.wr) (hslots : s'.slots = s.slots) : Pops 0 s s' :=
  ⟨hpar, hwriter, hslots, hreader.trans (Nat.mod_eq_of_lt hrd).symm, Nat.zero_le _⟩

section Pops

variable {s : State} (hrd : s.rd < s.par.n) (hwr : s.wr < s.par.n)
include hrd hwr

/-- An increment of the reader at a queue that is not empty pops one entry. -/
theorem Pops.one {s' : State} (hne : s.rd ≠ s.wr) (hpar : s'.par = s.par) (hreader : s'.rd = inc s.par.n s.rd)
    (hwriter : s'.wr = s.wr) (hslots : s'.slots = s.slots) : Pops 1 s s' :=
  ⟨hpar, hwriter, hslots, hreader, Nat.one_le_iff_ne_zero.2 ((occupancy_eq_zero_iff hrd hwr).not.2 hne)⟩

variable {p : Nat} {s1 : State} (h : Pops p s s1)
include h

/-- Each pop shows one entry less. -/
theorem Pops.occupancy_eq : occupancy s1 = occupancy s - p := by
  have hshown := h.shown
  have hrd1 : s1.rd < s1.par.n := by
    rw [h.par, h.reader]
    exact Nat.mod_lt _ (Nat.zero_lt_of_lt hrd)
  have hwr1 : s1.wr < s1.par.n := by rwa [h.par, h.writer]
  rw [occupancy_eq_ite hrd hwr] at hshown ⊢
  rw [occupancy_eq_ite hrd1 hwr1, h.par, h.writer, h.reader]
  by_cases hwrap : s.rd + p < s.par.n
  · rw [Nat.mod_eq_of_lt hwrap]
    split_ifs at hshown ⊢ <;> omega
  · have hp : p < s.par.n := by split_ifs at hshown <;> omega
    rw [Nat.mod_eq_sub_mod (by omega), Nat.mod_eq_of_lt (by omega)]
    split_ifs at hshown ⊢ <;> omega

/-- The entries popped are the first ones visible, and the rest stay in their order (R130). -/
theorem Pops.visible_eq : visible s1 = (visible s).drop p := by
  refine List.ext_getElem (by simp [h.occupancy_eq hrd hwr]) fun k _ _ => ?_
  simp [visible, h.par, h.slots, h.reader, Nat.add_assoc]

theorem Pops.trans {q : Nat} {s2 : State} (h2 : Pops q s1 s2) : Pops (p + q) s s2 where
  par := h2.par.trans h.par
  writer := h2.writer.trans h.writer
  slots := h2.slots.trans h.slots
  reader := by rw [h2.reader, h.par, h.reader, Nat.mod_add_mod, Nat.add_assoc]
  shown := by
    have hp := h.shown
    have hq := h2.shown
    rw [h.occupancy_eq hrd hwr] at hq
    omega

end Pops

/-- How far the reader has moved, read off the two readers: fewer than `N` entries are ever popped. -/
theorem reader_distance {n rd rd' p : Nat} (hrd : rd < n) (hp : p < n) (h : rd' = (rd + p) % n) :
    (rd' + (n - rd)) % n = p := by
  rw [h, Nat.mod_add_mod, show rd + p + (n - rd) = p + n by omega, Nat.add_mod_right, Nat.mod_eq_of_lt hp]

/-! ### The loop of `ADV` -/

/-- Whether the `k`-th entry from the head is due at `t`; an unwritten slot has no answer. -/
def dueAt (t : Nat) (s : State) (k : Nat) : Option Bool :=
  (Memory.read s.slots ((s.rd + k) % s.par.n)).map fun ts => due s.par.w ts t

theorem dueAt_of_read {t ts k : Nat} {s : State} (h : Memory.read s.slots ((s.rd + k) % s.par.n) = some ts) :
    dueAt t s k = some (due s.par.w ts t) := by
  rw [dueAt, h, Option.map_some]

theorem dueAt_of_slotRead {t ts : Nat} {s : State} (h : slotRead s.rd s = .ok ts) :
    dueAt t s 0 = some (due s.par.w ts t) := by
  obtain ⟨hrd, hread⟩ := slotRead_ok.1 h
  exact dueAt_of_read (by rwa [Nat.add_zero, Nat.mod_eq_of_lt hrd])

theorem Pops.dueAt_eq {p : Nat} {s s1 : State} (h : Pops p s s1) (t k : Nat) :
    dueAt t s1 k = dueAt t s (p + k) := by
  simp [dueAt, h.par, h.slots, h.reader, Nat.add_assoc]

/-- `p` entries are what the loop of `ADV(t)` pops from `s` (R124): each is due, and the one after them, if
any is visible, is not. -/
structure DuePrefix (t : Nat) (s : State) (p : Nat) : Prop where
  isDue : ∀ k < p, dueAt t s k = some true
  stops : p < occupancy s → dueAt t s p = some false

/-- A due head before the entries popped from the queue without it. -/
theorem DuePrefix.cons {t p : Nat} {s s1 : State} (hrd : s.rd < s.par.n) (hwr : s.wr < s.par.n)
    (hhead : dueAt t s 0 = some true) (hpop : Pops 1 s s1) (h : DuePrefix t s1 p) : DuePrefix t s (1 + p) where
  isDue k hk := by
    cases k with
    | zero => exact hhead
    | succ k => rw [Nat.add_comm k 1, ← hpop.dueAt_eq]; exact h.isDue k (by omega)
  stops hlt := by
    rw [← hpop.dueAt_eq]
    exact h.stops (by rw [hpop.occupancy_eq hrd hwr]; omega)

theorem advanceLoop_pops {fuel t : Nat} {s s' : State} (hrd : s.rd < s.par.n) (hwr : s.wr < s.par.n)
    (h : advanceLoop fuel t s = .next s') : ∃ p, Pops p s s' ∧ DuePrefix t s p := by
  induction fuel generalizing s with
  | zero => cases h
  | succ fuel ih =>
    unfold advanceLoop at h
    split at h
    · next hempty =>
      have hnone : occupancy s = 0 := (occupancy_eq_zero_iff hrd hwr).2 hempty
      cases h
      exact ⟨0, .none hrd rfl rfl rfl rfl, nofun, fun hlt => absurd hlt (by omega)⟩
    · next hne =>
      split at h
      · cases h
      · next ts hts =>
        have hhead : dueAt t s 0 = some (due s.par.w ts t) := dueAt_of_slotRead hts
        split at h <;> rename_i hdue
        · have hone : Pops 1 s { s with rd := inc s.par.n s.rd } := .one hrd hwr hne rfl rfl rfl rfl
          obtain ⟨p, hpops, hprefix⟩ :=
            ih (s := { s with rd := inc s.par.n s.rd }) (inc_lt (Nat.zero_lt_of_lt hrd) _) hwr h
          exact ⟨1 + p, hone.trans hrd hwr hpops, hprefix.cons hrd hwr (by rw [hhead, hdue]) hone⟩
        · cases h
          refine ⟨0, .none hrd rfl rfl rfl rfl, nofun, fun _ => ?_⟩
          rw [hhead, Bool.eq_false_iff.2 hdue]

/-- R160: an ATOMIC POLL pops what the loop of `ADV` at its clock value pops, or nothing where it does not run. -/
theorem pollAtomic_pops {s s' : State} (hrd : s.rd < s.par.n) (hwr : s.wr < s.par.n)
    (h : pollAtomic s = .next s') : ∃ p, Pops p s s' ∧ (p = 0 ∨ DuePrefix (nowOf s) s p) := by
  have hkeep : Pops 0 s s := .none hrd rfl rfl rfl rfl
  unfold pollAtomic at h
  split at h
  · split at h
    · cases h; exact ⟨0, hkeep, .inl rfl⟩
    · obtain ⟨s1, hloop, hdrive⟩ := andThen_eq_next.1 h
      cases hdrive
      obtain ⟨p, hpops, hprefix⟩ := advanceLoop_pops hrd hwr hloop
      exact ⟨p, ⟨hpops.par, hpops.writer, hpops.slots, hpops.reader, hpops.shown⟩, .inr hprefix⟩
  · cases h; exact ⟨0, hkeep, .inl rfl⟩

theorem execPoll_of_atomic {s : State} (h : s.par.pollMode = .atomic) : execPoll s = pollAtomic s := by
  rw [execPoll, h]

/-- Settles O56: stopping between the two needs the first due and the second not, at one clock value. -/
theorem compensatedPairCollapses : Obligations.CompensatedPairCollapses := by
  intro s s' k ts hi _ hmode hpair hfirst hsecond h hbetween
  obtain ⟨p, hpops, hp⟩ := pollAtomic_pops hi.reader hi.writer ((execPoll_of_atomic hmode).symm.trans h)
  have hroom : occupancy s < s.par.n := occupancy_lt hi.capacity_pos
  have hshown := hpops.shown
  obtain rfl : p = k + 1 :=
    offset_injective (by omega) (by omega) (hpops.reader.symm.trans hbetween)
  rcases hp with hp | hp
  · exact absurd hp (Nat.succ_ne_zero k)
  · have hdue := hp.isDue k (Nat.lt_succ_self k)
    have hwaits := hp.stops hpair
    rw [dueAt_of_read hfirst] at hdue
    rw [dueAt_of_read hsecond, hdue] at hwaits
    cases hwaits

/-! ### The dispatcher's micro-steps -/

/-- R166, R167: only COMMIT moves the reader, and pops the entry its TEST read; a TEST that chooses COMMIT
leaves the local copy on a visible head. -/
theorem MicroMove.pops {s s' : State} (hi : Inv s) (hf : FifoCoherent s) (h : MicroMove s s') :
    Pops (if s.dph = .commit then 1 else 0) s s' ∧ FifoCoherent s' := by
  cases h with
  | start hp | rest hp | empty hp | nonempty hp | sample hp | drained hp | wait _ _ hp | readParity hp
    | drive _ hp =>
    rw [if_neg (by rw [hp]; decide)]
    exact ⟨.none hi.reader rfl rfl rfl rfl, nofun⟩
  | take t ts hp hne =>
    rw [if_neg (by rw [hp]; decide)]
    exact ⟨.none hi.reader rfl rfl rfl rfl, fun _ => ⟨rfl, hne⟩⟩
  | pop r hp hr =>
    obtain ⟨hlocal, hne⟩ := hf hp
    obtain rfl : s.rd = r := Option.some.inj (hlocal.symm.trans hr)
    rw [if_pos hp]
    exact ⟨.one hi.reader hi.writer hne rfl rfl rfl rfl, nofun⟩

theorem iterate_pops {fuel : Nat} {s s' : State} (hi : Inv s) (hmode : s.par.pollMode = .interleaved)
    (hf : FifoCoherent s) (h : iterate fuel s = .next s') : ∃ p, Pops p s s' := by
  induction fuel generalizing s with
  | zero => cases h
  | succ fuel ih =>
    obtain ⟨s1, h1, h2⟩ := andThen_eq_next.1 h
    have hmove := microStep_move h1
    obtain ⟨hpops, hf1⟩ := hmove.pops hi hf
    split at h2
    · cases h2; exact ⟨_, hpops⟩
    · obtain ⟨q, hrest⟩ := ih (hi.microMove hmode hmove) (hmove.par ▸ hmode) hf1 h2
      exact ⟨_, hpops.trans hi.reader hi.writer hrest⟩

/-- R161: no COMMIT waits after a POLL, in either mode. -/
theorem execPoll_ends_idle {s s' : State} (hi : Inv s) (h : execPoll s = .next s') : s'.dph = .idle := by
  unfold execPoll at h
  split at h
  · next hmode => rw [pollAtomic_frame h]; exact hi.atomicIdle hmode
  · exact iterate_ends_idle h

theorem execPoll_pops {s s' : State} (hi : Inv s) (hf : FifoCoherent s) (h : execPoll s = .next s') :
    ∃ p, Pops p s s' ∧ FifoCoherent s' := by
  have hidle := execPoll_ends_idle hi h
  have hf' : FifoCoherent s' := fun hc => by simp [hidle] at hc
  unfold execPoll at h
  split at h
  · obtain ⟨p, hpops, -⟩ := pollAtomic_pops hi.reader hi.writer h
    exact ⟨p, hpops, hf'⟩
  · next hmode =>
    obtain ⟨p, hpops⟩ := iterate_pops hi hmode hf h
    exact ⟨p, hpops, hf'⟩

end Sys2Proof.Safety
end

section
/-! PROOFS. First in, first out: what every step that neither resets nor overflows the queue does to the
visible entries (42_scheduler.md R130, R127 (a)). -/

namespace Sys2Proof.Safety

open Sys2Proof.Machine

/-- What R130 says of a step that pushes `ts` and pops `p` entries. -/
structure FifoStep (ts : List Nat) (p : Nat) (s s' : State) : Prop where
  reader : s'.rd = (s.rd + p) % s.par.n
  shown : p ≤ occupancy s
  order : visible s' = (visible s ++ ts.map some).drop p
  coherent : FifoCoherent s'

theorem Pops.fifoStep {p : Nat} {s s' : State} (h : Pops p s s') (hi : Inv s) (hf : FifoCoherent s') :
    FifoStep [] p s s' :=
  ⟨h.reader, h.shown, by simpa using h.visible_eq hi.reader hi.writer, hf⟩

/-- A step that touches neither the queue nor the dispatcher. -/
theorem fifoStep_of_kept {s s' : State} (hi : Inv s) (hf : FifoCoherent s) (hpar : s'.par = s.par)
    (hrd : s'.rd = s.rd) (hwr : s'.wr = s.wr) (hslots : s'.slots = s.slots) (hdph : s'.dph = s.dph)
    (hrL : s'.rL = s.rL) : FifoStep [] 0 s s' :=
  (Pops.none hi.reader hpar hrd hwr hslots).fifoStep hi (by rwa [FifoCoherent, hdph, hrL, hrd, hwr])

/-! ### Edges -/

/-- R127 (a): pushes that find room append their times, and the entry that a COMMIT will pop stays visible. -/
theorem fifoStep_afterPushes {s : State} (hi : Inv s) (hf : FifoCoherent s) (ts : List Nat)
    (hroom : occupancy s + ts.length < s.par.n) : FifoStep ts 0 s (afterPushes ts s) := by
  obtain ⟨hpar, hrd, hdph, hrL⟩ := afterPushes_frame ts s
  have horder : visible (afterPushes ts s) = visible s ++ ts.map some := by
    rw [visible_afterPushes ts hi.two_le hi.reader hi.writer, Nat.mod_eq_of_lt hroom, Nat.sub_self,
      List.drop_zero]
  refine ⟨by rw [hrd, Nat.add_zero, Nat.mod_eq_of_lt hi.reader], Nat.zero_le _, horder, fun hc => ?_⟩
  obtain ⟨hlocal, hne⟩ := hf (hdph ▸ hc)
  refine ⟨by rw [hrL, hrd, hlocal], fun hmeet => hne ?_⟩
  have hreader : (afterPushes ts s).rd < (afterPushes ts s).par.n := by
    rw [hpar, hrd]
    exact hi.reader
  have hempty : occupancy (afterPushes ts s) = 0 := (occupancy_eq_zero_iff hreader (hmeet ▸ hreader)).2 hmeet
  rw [← visible_eq_nil_iff, horder, List.append_eq_nil_iff, visible_eq_nil_iff] at hempty
  exact (occupancy_eq_zero_iff hi.reader hi.writer).1 hempty.1

theorem modeOf_eq_delayed_iff {s : State} : modeOf s = .delayed ↔ s.en = true ∧ s.hd = true := by
  unfold modeOf
  split_ifs <;> simp_all

/-- R142: the entries of an edge are what its enqueue pushes in delayed mode. -/
theorem edgeEntries_of_delayed (role : Role) {s : State} (h : modeOf s = .delayed) :
    edgeEntries role s = enqueuedTimes role (target s.par.w (nowOf s) s.lat) s := by
  obtain ⟨hen, hhd⟩ := modeOf_eq_delayed_iff.1 h
  exact edgeEntries_delayed hen hhd

theorem edgeEntries_of_not_delayed (role : Role) {s : State} (h : modeOf s ≠ .delayed) :
    edgeEntries role s = [] := by
  rw [Ne, modeOf_eq_delayed_iff, not_and_or, Bool.not_eq_true, Bool.not_eq_true] at h
  exact edgeEntries_not_delayed h

theorem edgeHandler_fifoStep {role : Role} {level : Bool} {s s' : State} (hi : Inv s) (hf : FifoCoherent s)
    (hroom : occupancy s + (edgeEntries role s).length < s.par.n) (h : edgeHandler role level s = .next s') :
    FifoStep (edgeEntries role s) 0 s s' := by
  obtain ⟨heven, -⟩ := paramsOk_conditions hi.params
  rcases edgeHandler_cases h with ⟨hmode, rfl⟩ | ⟨hmode, rfl⟩ | ⟨hmode, henq⟩
  · rw [edgeEntries_of_not_delayed role (by rw [hmode]; decide)]
    exact fifoStep_of_kept hi hf rfl rfl rfl rfl rfl rfl
  · rw [edgeEntries_of_not_delayed role (by rw [hmode]; decide)]
    exact fifoStep_of_kept hi hf rfl rfl rfl rfl rfl rfl
  · rw [edgeEntries_of_delayed role hmode] at hroom ⊢
    rw [enqueue_eq_afterPushes role _ heven hi.writer] at henq
    cases henq
    exact fifoStep_afterPushes hi hf _ hroom

/-! ### Steps -/

/-- What R130 says of an event: it pushes its entries and pops some, but none unless it is the dispatcher's,
and one exactly if it is a COMMIT. -/
def FifoEvent (e : Event) (s s' : State) : Prop :=
  ∃ p, FifoStep (entriesPushed e s) p s s' ∧ (isDispatcherStep e = false → p = 0) ∧
    (e = .command (encode .pstep) → p = if s.dph = .commit then 1 else 0)

/-- A step that pops nothing, of any event but PSTEP. -/
theorem fifoEvent_of_fifoStep {e : Event} {s s' : State} (h : FifoStep (entriesPushed e s) 0 s s')
    (hother : e ≠ .command (encode .pstep)) : FifoEvent e s s' :=
  ⟨0, h, fun _ => rfl, fun he => absurd he hother⟩

/-- R70: a word that decodes to another command is not the word of PSTEP. -/
theorem command_ne_pstep {w : CmdWord} (h : decode w ≠ .pstep) : Event.command w ≠ .command (encode .pstep) := by
  rintro ⟨⟩
  exact h (by decide)

section Events

variable {s s' : State} (hi : Inv s) (hf : FifoCoherent s)
include hi hf

/-- R140, R141: an edge's event pushes its entries and pops none. -/
theorem edge_fifoEvent {e : Event} {role : Role} {level : Bool} (hpushed : entriesPushed e s = edgeEntries role s)
    (hother : e ≠ .command (encode .pstep)) (hroom : occupancy s + (entriesPushed e s).length < s.par.n)
    (h : edgeHandler role level s = .next s') : FifoEvent e s s' := by
  rw [hpushed] at hroom
  exact fifoEvent_of_fifoStep (hpushed ▸ edgeHandler_fifoStep hi hf hroom h) hother

/-- R160, R161: a POLL in either mode pops any number of entries and pushes none. -/
theorem poll_fifoEvent {w : CmdWord} (hd : decode w = .poll) (h : execPoll s = .next s') :
    FifoEvent (.command w) s s' := by
  obtain ⟨p, hpops, hf'⟩ := execPoll_pops hi hf h
  have hpushed : entriesPushed (.command w) s = [] := by simp [entriesPushed, hd]
  refine ⟨p, hpushed ▸ hpops.fifoStep hi hf', fun hn => ?_, fun he => ?_⟩
  · simp [isDispatcherStep, hd] at hn
  · exact absurd he (command_ne_pstep (by simp [hd]))

/-- R162: a PSTEP is one micro-step. -/
theorem pstep_fifoEvent {w : CmdWord} (hd : decode w = .pstep) (h : execPstep s = .next s') :
    FifoEvent (.command w) s s' := by
  obtain ⟨-, hstep⟩ := execPstep_eq_next.1 h
  obtain ⟨hpops, hf'⟩ := (microStep_move hstep).pops hi hf
  have hpushed : entriesPushed (.command w) s = [] := by simp [entriesPushed, hd]
  refine ⟨_, hpushed ▸ hpops.fifoStep hi hf', fun hn => ?_, fun _ => rfl⟩
  simp [isDispatcherStep, hd] at hn

theorem command_fifoEvent {w : CmdWord} (hload : loadsConfig (.command w) s = false)
    (hroom : occupancy s + (entriesPushed (.command w) s).length < s.par.n) (h : exec (decode w) s = .next s') :
    FifoEvent (.command w) s s' := by
  have hkept : FifoStep [] 0 s s := fifoStep_of_kept hi hf rfl rfl rfl rfl rfl rfl
  cases hc : configByteOf (decode w) with
  | some c =>
    have hignored : flagLoaded s.par c = none := by simpa [loadsConfig, hc] using hload
    rw [exec_of_configByteOf hc, serveByte_ignored hignored] at h
    cases h
    have hne : ∀ i, configByteOf i = none → decode w ≠ i := by
      rintro _ hnone rfl
      simp [hnone] at hc
    have hpushed : entriesPushed (.command w) s = [] := by
      simp [entriesPushed, hne .rise rfl, hne .fall rfl]
    exact fifoEvent_of_fifoStep (hpushed ▸ hkept) (command_ne_pstep (hne .pstep rfl))
  | none =>
    cases hd : decode w <;> rw [hd] at h hc
    case nop =>
      cases h
      have hpushed : entriesPushed (.command w) s = [] := by simp [entriesPushed, hd]
      exact fifoEvent_of_fifoStep (hpushed ▸ hkept) (command_ne_pstep (by simp [hd]))
    case poll => exact poll_fifoEvent hi hf hd h
    case pstep => exact pstep_fifoEvent hi hf hd h
    case rise =>
      exact edge_fifoEvent hi hf (by simp [entriesPushed, hd]) (command_ne_pstep (by simp [hd])) hroom h
    case fall =>
      exact edge_fifoEvent hi hf (by simp [entriesPushed, hd]) (command_ne_pstep (by simp [hd])) hroom h
    case cfgIgn | cfgLoadLow | cfgLoadHigh | cfgHighLow | cfgHighTop => cases hc
    case reservedOp | nonzeroNop | nonzeroPoll | nonzeroRise | nonzeroFall | nonzeroPstep => cases h

/-- R204, R209: taking the source touches neither the queue nor the dispatcher, so a service is its handler. -/
theorem service_fifoEvent {src : Source} (hload : loadsConfig (.service src) s = false)
    (hroom : occupancy s + (entriesPushed (.service src) s).length < s.par.n) (h : service src s = .next s') :
    FifoEvent (.service src) s s' := by
  have hi1 := hi.sameBlock (sameBlock_acceptSource src s)
  obtain ⟨-, ⟨rfl, hedge⟩ | ⟨rfl, hedge⟩ | ⟨rfl, c, cs, hq, rfl⟩⟩ := service_cases h
  · obtain ⟨hreader, hshown, horder, hf'⟩ := edgeHandler_fifoStep hi1 hf hroom hedge
    exact fifoEvent_of_fifoStep ⟨hreader, hshown, horder, hf'⟩ nofun
  · obtain ⟨hreader, hshown, horder, hf'⟩ := edgeHandler_fifoStep hi1 hf hroom hedge
    exact fifoEvent_of_fifoStep ⟨hreader, hshown, horder, hf'⟩ nofun
  · have hignored : flagLoaded (acceptSource .rx s).par c = none := by simpa [loadsConfig, hq] using hload
    rw [serveByte_ignored hignored]
    exact fifoEvent_of_fifoStep (fifoStep_of_kept hi hf rfl rfl rfl rfl rfl rfl) nofun

theorem runEvent_fifoEvent {e : Event} (hload : loadsConfig e s = false) (hreset : e ≠ .powerOn)
    (hroom : occupancy s + (entriesPushed e s).length < s.par.n) (h : runEvent e s = .next s') :
    FifoEvent e s s' := by
  cases e with
  | command w => exact command_fifoEvent hi hf hload hroom h
  | service src => exact service_fifoEvent hi hf hload hroom h
  | powerOn => exact absurd rfl hreset
  | edgeRise | edgeFall | byteArrives c =>
    cases h
    exact fifoEvent_of_fifoStep (fifoStep_of_kept hi hf rfl rfl rfl rfl rfl rfl) nofun

end Events

/-- Settles O58: the clock aside a step is its event, and what it popped is how far the reader moved. -/
theorem queueIsFifo : Obligations.QueueIsFifo := by
  intro s s' st hi hf hload hreset h pushed popped hroom
  have hi1 := hi.sameBlock (sameBlock_advanceClock st.elapsed s)
  obtain ⟨p, hfifo, hother, hcommit⟩ :=
    runEvent_fifoEvent hi1 hf hload hreset hroom (takeStimulus_eq_next.1 h).2
  have hlt : p < s.par.n := hfifo.shown.trans_lt (occupancy_lt hi.capacity_pos)
  have hpopped : popped = p := reader_distance hi.reader hlt hfifo.reader
  rw [hpopped]
  exact ⟨hfifo.order, hfifo.shown, hfifo.coherent, hother, hcommit⟩

end Sys2Proof.Safety
end

section
/-! PROOFS. The edge handlers, RISE and FALL, in the three modes (43_edge_capture.md R140 to R142, R144). -/

namespace Sys2Proof.Safety

open Sys2Proof.Machine

/-! ### Disabled and direct mode -/

theorem edgeHandler_of_disabled (role : Role) (level : Bool) {s : State} (hen : s.en = false) :
    edgeHandler role level s = .next s := by
  simp [edgeHandler, modeOf, hen]

theorem edgeHandler_of_direct (role : Role) (level : Bool) {s : State} (hen : s.en = true) (hhd : s.hd = false) :
    edgeHandler role level s = .next (driveOut level s) := by
  simp [edgeHandler, modeOf, hen, hhd]

/-- Settles O21: RISE and FALL are the edge handler of their role, with the levels `true` and `false`. -/
theorem edgesOutsideDelayedMode : Obligations.EdgesOutsideDelayedMode := fun _ =>
  ⟨fun hen => ⟨edgeHandler_of_disabled .on true hen, edgeHandler_of_disabled .off false hen⟩,
    fun hen hhd => ⟨edgeHandler_of_direct .on true hen hhd, edgeHandler_of_direct .off false hen hhd⟩⟩

/-! ### Delayed mode -/

theorem edgeHandler_of_delayed (role : Role) (level : Bool) {s : State} (hen : s.en = true) (hhd : s.hd = true) :
    edgeHandler role level s = enqueue role (target s.par.w (nowOf s) s.lat) s := by
  simp [edgeHandler, modeOf, hen, hhd]

/-- R28, R123: without the counter a push counts nothing. -/
theorem afterPushes_ovfCount_of_no_counter (ts : List Nat) {s : State} (h : s.par.hasOvfCounter = false) :
    (afterPushes ts s).ovfCount = s.ovfCount := by
  induction ts generalizing s with
  | nil => rfl
  | cons t ts ih =>
    rw [afterPushes_cons, ih (by simpa using h)]
    exact advanceWriter_ovfCount_of_no_counter h

theorem read_afterPush (t : Nat) (s : State) (j : Nat) :
    Memory.read (afterPush t s).slots j = if j = s.wr then some t else Memory.read s.slots j := by
  rw [afterPush_slots, Memory.read_write]

/-- Two pushes of one time leave it in two successive slots; as the times agree, the order of the writes does not show. -/
theorem read_afterPush_afterPush (t : Nat) (s : State) (j : Nat) :
    Memory.read (afterPush t (afterPush t s)).slots j =
      if j = s.wr ∨ j = inc s.par.n s.wr then some t else Memory.read s.slots j := by
  simp only [read_afterPush, afterPush_wr, or_comm (a := j = s.wr), ite_or]

/-- What the queue of `s'` holds after an edge of a role put the time `t` into the queue of `s`: R120 to R123
in one statement, and R140 or R141 according to the role. -/
structure EdgeWrites (role : Role) (t : Nat) (s s' : State) : Prop where
  /-- Only the writer, the slots and the overflow count may differ. -/
  frame : s' = { s with wr := s'.wr, slots := s'.slots, ovfCount := s'.ovfCount }
  noCounter : s.par.hasOvfCounter = false → s'.ovfCount = s.ovfCount
  /-- One of the pushes found `N − 1` entries: the first, or the compensation write. -/
  counted : s.rd < s.par.n → s'.ovfCount =
    if s.par.hasOvfCounter = true ∧
        (occupancy s = s.par.n - 1 ∨ (occupancy s = s.par.n - 2 ∧ s.wr % 2 = (roleNumber role + 1) % 2))
    then min (s.ovfCount + 1) (2 ^ s.par.ovfWidth - 1) else s.ovfCount
  /-- The writer has the parity of the role: one push. -/
  once : s.wr % 2 = roleNumber role → s'.wr = inc s.par.n s.wr ∧
    ∀ j, Memory.read s'.slots j = if j = s.wr then some t else Memory.read s.slots j
  /-- The writer has the other parity: a compensation write before the event's own. -/
  twice : s.wr % 2 = (roleNumber role + 1) % 2 → s'.wr = inc s.par.n (inc s.par.n s.wr) ∧
    ∀ j, Memory.read s'.slots j =
      if j = s.wr ∨ j = inc s.par.n s.wr then some t else Memory.read s.slots j

/-- A parity is either the role's own or the other one. -/
theorem ne_roleNumber_iff (role : Role) (i : Nat) :
    i % 2 ≠ roleNumber role ↔ i % 2 = (roleNumber role + 1) % 2 := by
  have hrole := roleNumber_lt_two role
  omega

/-- R120 to R123: an enqueue from a writer in range lands, and writes its time once or twice. -/
theorem enqueue_edgeWrites (role : Role) (t : Nat) {s : State} (hp : paramsOk s.par = true)
    (hwr : s.wr < s.par.n) : ∃ s', enqueue role t s = .next s' ∧ EdgeWrites role t s s' := by
  obtain ⟨heven, hn, -⟩ := paramsOk_conditions hp
  have henq := enqueue_eq_afterPushes role t heven hwr
  refine ⟨_, henq, enqueue_frame henq, afterPushes_ovfCount_of_no_counter _, fun hrd => ?_, fun hown => ?_,
    fun hother => ?_⟩
  · have hone : occupancy s = s.par.n - 1 ↔ occupancy s + 1 = s.par.n := by omega
    have htwo : occupancy s = s.par.n - 2 ↔ occupancy s + 2 = s.par.n := by omega
    simp only [hone, htwo, ← ne_roleNumber_iff]
    exact ovfCount_enqueue role t hn hrd hwr
  · rw [enqueuedTimes_of_parity t hown]
    exact ⟨afterPush_wr t s, read_afterPush t s⟩
  · rw [enqueuedTimes_of_other_parity t ((ne_roleNumber_iff role s.wr).2 hother)]
    exact ⟨by simp, read_afterPush_afterPush t s⟩

/-- R140, R141 in delayed mode: the time an edge writes is `now +_W LAT`. -/
theorem edgeHandler_edgeWrites (role : Role) (level : Bool) {s : State} (hp : paramsOk s.par = true)
    (hwr : s.wr < s.par.n) (hen : s.en = true) (hhd : s.hd = true) :
    ∃ s', edgeHandler role level s = .next s' ∧ EdgeWrites role ((nowOf s + s.lat) % 2 ^ s.par.w) s s' := by
  rw [edgeHandler_of_delayed role level hen hhd]
  exact enqueue_edgeWrites role (target s.par.w (nowOf s) s.lat) hp hwr

/-- Settles O22: the role ON has number 0, so the compensation write comes from an odd writer. -/
theorem riseEnqueuesTarget : Obligations.RiseEnqueuesTarget := by
  intro s hp hwr hen hhd
  obtain ⟨s', hexec, hw⟩ := edgeHandler_edgeWrites .on true hp hwr hen hhd
  exact ⟨s', hexec, hw.frame, hw.noCounter, hw.counted, hw.once, hw.twice⟩

/-- Settles O23: the role OFF has number 1, so the compensation write comes from an even writer. -/
theorem fallEnqueuesTarget : Obligations.FallEnqueuesTarget := by
  intro s hp hwr hen hhd
  obtain ⟨s', hexec, hw⟩ := edgeHandler_edgeWrites .off false hp hwr hen hhd
  exact ⟨s', hexec, hw.frame, hw.noCounter, hw.counted, hw.once, hw.twice⟩

end Sys2Proof.Safety
end

section
/-! PROOFS. PSTEP performs the micro-step `DPH` selects (44_dispatcher.md R162 to R170). -/

namespace Sys2Proof.Safety

open Sys2Proof.Machine

/-- The move a phase and its guard select is the one the micro-step makes. -/
theorem MicroMove.microStep_eq {s s' : State} (h : MicroMove s s') : microStep s = .next s' := by
  cases h with
  | start hp hen hhd => simp [microStep, hp, stepIdle, hen, hhd]
  | rest hp hmode => simp only [microStep, hp, stepIdle, hmode, Bool.false_eq_true, if_false]
  | empty hp hmeet => simp [microStep, hp, stepSnap, hmeet]
  | nonempty hp hne => simp [microStep, hp, stepSnap, hne]
  | sample hp => simp [microStep, hp, stepTime]
  | drained hp hmeet => simp [microStep, hp, stepTest, hmeet]
  | wait t ts hp hne ht hts hdue | take t ts hp hne ht hts hdue =>
    simp [microStep, hp, stepTest, hne, ht, hts, hdue]
  | pop r hp hr => simp [microStep, hp, stepCommit, hr]
  | readParity hp => simp [microStep, hp, stepPar]
  | drive b hp hb => simp [microStep, hp, stepDrive, hb, driveOut]

/-- R166: TEST reads the head slot, and a fault of that read is the micro-step's. -/
theorem microStep_of_head_fault {s : State} {t : Nat} {f : Fault} (hp : s.dph = .test) (hne : s.rd ≠ s.wr)
    (ht : s.tL = some t) (hread : slotRead s.rd s = .error f) : microStep s = .fault f := by
  simp [microStep, hp, stepTest, hne, ht, hread]

theorem MicroMove.slots {s s' : State} (h : MicroMove s s') : s'.slots = s.slots := by
  cases h <;> rfl

/-- R29, R30: from every state of the invariant the micro-step is a move, or fault 4 at an unwritten head. -/
theorem microStep_answers {s : State} (hi : Inv s) :
    (∃ s1, MicroMove s s1) ∨
      (microStep s = .fault (.unwrittenSlotRead s.rd) ∧ Memory.read s.slots s.rd = none) := by
  have hready := hi.locals
  cases hp : s.dph with
  | idle =>
    cases hmode : s.en && s.hd with
    | false => exact .inl ⟨_, .rest hp hmode⟩
    | true =>
      obtain ⟨hen, hhd⟩ := Bool.and_eq_true_iff.1 hmode
      exact .inl ⟨_, .start hp hen hhd⟩
  | snap =>
    by_cases hmeet : s.rd = s.wr
    · exact .inl ⟨_, .empty hp hmeet⟩
    · exact .inl ⟨_, .nonempty hp hmeet⟩
  | time => exact .inl ⟨_, .sample hp⟩
  | test =>
    obtain ⟨t, ht⟩ : ∃ t, s.tL = some t := by simpa [localsReady, hp, Option.isSome_iff_exists] using hready
    by_cases hmeet : s.rd = s.wr
    · exact .inl ⟨_, .drained hp hmeet⟩
    cases hread : Memory.read s.slots s.rd with
    | none => exact .inr ⟨microStep_of_head_fault hp hmeet ht (slotRead_unwritten hi.reader hread), rfl⟩
    | some ts =>
      have hts := slotRead_ok.2 ⟨hi.reader, hread⟩
      cases hdue : due s.par.w ts t with
      | false => exact .inl ⟨_, .wait t ts hp hmeet ht hts hdue⟩
      | true => exact .inl ⟨_, .take t ts hp hmeet ht hts hdue⟩
  | commit =>
    obtain ⟨-, r, hr⟩ : s.tL.isSome = true ∧ ∃ r, s.rL = some r := by
      simpa [localsReady, hp, Option.isSome_iff_exists] using hready
    exact .inl ⟨_, .pop r hp hr⟩
  | par => exact .inl ⟨_, .readParity hp⟩
  | drive =>
    obtain ⟨b, hb⟩ : ∃ b, s.pL = some b := by simpa [localsReady, hp, Option.isSome_iff_exists] using hready
    exact .inl ⟨_, .drive b hp hb⟩

/-- R162: in INTERLEAVED mode PSTEP is the micro-step. -/
theorem exec_pstep_of_interleaved {s : State} (hmode : s.par.pollMode = .interleaved) :
    exec .pstep s = microStep s := by
  simp [exec, execPstep, hmode]

theorem exec_pstep_of_move {s s' : State} (hmode : s.par.pollMode = .interleaved) (h : MicroMove s s') :
    exec .pstep s = .next s' :=
  (exec_pstep_of_interleaved hmode).trans h.microStep_eq

/-- Settles O29: each condition chooses between the two moves of its phase. -/
theorem pstepStartsIteration : Obligations.PstepStartsIteration := by
  refine fun s hmode => ⟨fun hp => ?_, fun hp => ?_, fun hp => exec_pstep_of_move hmode (.sample hp)⟩
  · split <;> rename_i hdelayed
    · exact exec_pstep_of_move hmode (.start hp hdelayed.1 hdelayed.2)
    · exact exec_pstep_of_move hmode (.rest hp (by simpa [← Bool.not_eq_true] using hdelayed))
  · split <;> rename_i hmeet
    · exact exec_pstep_of_move hmode (.empty hp hmeet)
    · exact exec_pstep_of_move hmode (.nonempty hp hmeet)

/-- Settles O30: TEST drained, with a head that is due or not, and with an unwritten one. -/
theorem pstepTestReadsHead : Obligations.PstepTestReadsHead := by
  refine fun s hmode hp => ⟨fun hmeet => exec_pstep_of_move hmode (.drained hp hmeet),
    fun t ts hne hrd ht hread => ?_, fun t hne hrd ht hread => ?_⟩
  · have hts := slotRead_ok.2 ⟨hrd, hread⟩
    split <;> rename_i hdue
    · exact exec_pstep_of_move hmode (.take t ts hp hne ht hts hdue)
    · exact exec_pstep_of_move hmode (.wait t ts hp hne ht hts (Bool.eq_false_iff.2 hdue))
  · rw [exec_pstep_of_interleaved hmode]
    exact microStep_of_head_fault hp hne ht (slotRead_unwritten hrd hread)

/-- Settles O31: the move `pop`, whose increment is that of the local copy. -/
theorem pstepCommitPopsFromLocal : Obligations.PstepCommitPopsFromLocal :=
  fun _ r hmode hp hr => exec_pstep_of_move hmode (.pop r hp hr)

/-- Settles O32: the moves `readParity` and `drive`. -/
theorem pstepParThenDrive : Obligations.PstepParThenDrive :=
  ⟨fun _ hmode hp => exec_pstep_of_move hmode (.readParity hp),
    fun _ b hmode hp hb => exec_pstep_of_move hmode (.drive b hp hb)⟩

end Sys2Proof.Safety
end

section
/-! PROOFS. POLL in INTERLEAVED mode: micro-steps until the iteration in progress has ended
(44_dispatcher.md R161, R172, 10_state.md R38(c)). -/

namespace Sys2Proof.Safety

open Sys2Proof.Machine

/-! ### One turn of the loop -/

section Turn

variable {s s1 : State} (h : MicroMove s s1)
include h

theorem iterate_succ_of_last (fuel : Nat) (hend : s1.dph = .idle) : iterate (fuel + 1) s = .next s1 := by
  simp [iterate, h.microStep_eq, hend]

theorem iterate_succ_of_move (fuel : Nat) (hgo : s1.dph ≠ .idle) :
    iterate (fuel + 1) s = iterate fuel s1 := by
  simp [iterate, h.microStep_eq, hgo]

end Turn

theorem iterate_succ_of_fault {s : State} {f : Fault} (h : microStep s = .fault f) (fuel : Nat) :
    iterate (fuel + 1) s = .fault f := by
  simp [iterate, h]

/-- R172: fuel beyond what the iteration takes changes nothing. -/
theorem iterate_succ_of_enough {fuel : Nat} {s : State} (hi : Inv s)
    (hmode : s.par.pollMode = .interleaved) (hfuel : stepsLeft s ≤ fuel) :
    iterate (fuel + 1) s = iterate fuel s := by
  induction fuel generalizing s with
  | zero => exact absurd (stepsLeft_pos s) (by omega)
  | succ k ih =>
    obtain ⟨s1, hm⟩ | ⟨hfault, -⟩ := microStep_answers hi
    · by_cases hend : s1.dph = .idle
      · rw [iterate_succ_of_last hm _ hend, iterate_succ_of_last hm _ hend]
      · have hless := hm.stepsLeft_lt hi.reader hi.writer hend
        rw [iterate_succ_of_move hm _ hend, iterate_succ_of_move hm _ hend]
        exact ih (hi.microMove hmode hm) (hm.par ▸ hmode) (by omega)
    · rw [iterate_succ_of_fault hfault, iterate_succ_of_fault hfault]

/-! ### POLL without its fuel -/

theorem exec_poll_of_interleaved {s : State} (hmode : s.par.pollMode = .interleaved) :
    exec .poll s = pollInterleaved s := by
  simp [exec, execPoll, hmode]

theorem pollInterleaved_of_last {s s1 : State} (h : MicroMove s s1) (hend : s1.dph = .idle) :
    pollInterleaved s = .next s1 :=
  iterate_succ_of_last h _ hend

theorem pollInterleaved_of_fault {s : State} {f : Fault} (h : microStep s = .fault f) :
    pollInterleaved s = .fault f :=
  iterate_succ_of_fault h _

/-- R161: after a micro-step that leaves the iteration in progress, the rest of a POLL is a POLL. -/
theorem pollInterleaved_of_move {s s1 : State} (hi : Inv s) (hmode : s.par.pollMode = .interleaved)
    (h : MicroMove s s1) (hgo : s1.dph ≠ .idle) : pollInterleaved s = pollInterleaved s1 := by
  have hbound : stepsLeft s ≤ 2 * s.par.n + 4 := stepsLeft_le hi.capacity_pos
  have hless : stepsLeft s1 < stepsLeft s := h.stepsLeft_lt hi.reader hi.writer hgo
  calc pollInterleaved s
      = iterate (2 * s.par.n + 3) s1 := iterate_succ_of_move h _ hgo
    _ = iterate (2 * s.par.n + 3 + 1) s1 :=
        (iterate_succ_of_enough (hi.microMove hmode h) (h.par ▸ hmode) (by omega)).symm
    _ = pollInterleaved s1 := by rw [pollInterleaved, h.par]

/-- R172: a POLL from any phase answers, but for the read of an unwritten slot. -/
theorem pollInterleaved_answers {s : State} (hi : Inv s) (hmode : s.par.pollMode = .interleaved) :
    (∃ s', pollInterleaved s = .next s') ∨
      ∃ i, i < s.par.n ∧ Memory.read s.slots i = none ∧
        pollInterleaved s = .fault (.unwrittenSlotRead i) := by
  induction hleft : stepsLeft s using Nat.strong_induction_on generalizing s with
  | _ left ih =>
    obtain ⟨s1, hm⟩ | ⟨hfault, hread⟩ := microStep_answers hi
    · by_cases hend : s1.dph = .idle
      · exact .inl ⟨s1, pollInterleaved_of_last hm hend⟩
      · have hless := hm.stepsLeft_lt hi.reader hi.writer hend
        have hrest := ih _ (hleft ▸ hless) (hi.microMove hmode hm) (hm.par ▸ hmode) rfl
        rwa [pollInterleaved_of_move hi hmode hm hend, ← hm.par, ← hm.slots]
    · exact .inr ⟨s.rd, hi.reader, hread, pollInterleaved_of_fault hfault⟩

/-- R161: a POLL is a PSTEP, and a POLL again unless that ended the iteration. -/
theorem exec_poll_eq_pstep_then_poll {s : State} (hi : Inv s) (hmode : s.par.pollMode = .interleaved) :
    exec .poll s =
      andThen (exec .pstep s) fun s1 => if s1.dph = .idle then .next s1 else exec .poll s1 := by
  rw [exec_poll_of_interleaved hmode]
  obtain ⟨s1, hm⟩ | ⟨hfault, -⟩ := microStep_answers hi
  · rw [exec_pstep_of_move hmode hm, andThen_next]
    split <;> rename_i hend
    · exact pollInterleaved_of_last hm hend
    · rw [exec_poll_of_interleaved (hm.par ▸ hmode)]
      exact pollInterleaved_of_move hi hmode hm hend
  · rw [exec_pstep_of_interleaved hmode, hfault, andThen_fault]
    exact pollInterleaved_of_fault hfault

/-- Settles O27: the loop unrolled once, and by the steps left, its answer. -/
theorem interleavedPollTerminates : Obligations.InterleavedPollTerminates := by
  refine fun s hi hmode => ⟨exec_poll_eq_pstep_then_poll hi hmode, ?_⟩
  rw [exec_poll_of_interleaved hmode]
  obtain ⟨s', hnext⟩ | hfault := pollInterleaved_answers hi hmode
  · exact .inl ⟨s', hnext, iterate_ends_idle hnext, iterate_frame hnext⟩
  · exact .inr hfault

/-- Settles O28: from a sound queue no micro-step faults, so of O27's answers only the first is left. -/
theorem interleavedPollCompletes : Obligations.InterleavedPollCompletes := by
  intro s hi hmode hring hpop
  obtain ⟨hsound, hnofault⟩ :=
    QueueSound.iterate ⟨hi, hring, hpop⟩ hmode (stepsLeft_le hi.capacity_pos)
  rw [exec_poll_of_interleaved hmode]
  obtain ⟨s', hnext⟩ | ⟨i, -, -, hfault⟩ := pollInterleaved_answers hi hmode
  · exact ⟨s', hnext, iterate_ends_idle hnext, (hsound s' hnext).ring⟩
  · exact absurd hfault (hnofault _)

end Sys2Proof.Safety
end

section
/-! PROOFS. POLL at `DPH = IDLE`: where there is nothing to do, in ATOMIC mode, and in INTERLEAVED mode as a
refinement of it (44_dispatcher.md R160, R163, R164, R171, R175). -/

namespace Sys2Proof.Safety

open Sys2Proof.Machine

/-! ### Nothing to do -/

theorem exec_poll_of_atomic {s : State} (hmode : s.par.pollMode = .atomic) : exec .poll s = pollAtomic s :=
  execPoll_of_atomic hmode

theorem with_dph_eq_self {s : State} {p : Phase} (h : s.dph = p) : { s with dph := p } = s := by
  rw [← h]

theorem pollAtomic_of_not_delayed {s : State} (h : (s.en && s.hd) = false) : pollAtomic s = .next s := by
  simp only [pollAtomic, h, Bool.false_eq_true, if_false]

theorem pollAtomic_of_empty {s : State} (h : s.rd = s.wr) : pollAtomic s = .next s := by
  simp [pollAtomic, h]

theorem pollInterleaved_of_not_delayed {s : State} (hp : s.dph = .idle) (h : (s.en && s.hd) = false) :
    pollInterleaved s = .next s := by
  rw [pollInterleaved_of_last (.rest hp h) rfl, with_dph_eq_self hp]

/-- SNAP ends the iteration that IDLE began. -/
theorem pollInterleaved_of_empty {s : State} (hp : s.dph = .idle) (hen : s.en = true) (hhd : s.hd = true)
    (h : s.rd = s.wr) : pollInterleaved s = .next s := by
  calc pollInterleaved s
      = iterate (2 * s.par.n + 3) { s with dph := .snap } :=
        iterate_succ_of_move (.start hp hen hhd) _ nofun
    _ = .next { s with dph := .idle } :=
        iterate_succ_of_last (s := { s with dph := .snap }) (.empty rfl h) _ rfl
    _ = .next s := by rw [with_dph_eq_self hp]

/-- Settles O24: outside delayed mode by the mode test, else by the cursors, in each of the two modes. -/
theorem pollIdleWhenNothingToDo : Obligations.PollIdleWhenNothingToDo := by
  intro s hp hnothing
  cases hdelayed : s.en && s.hd with
  | false =>
    cases hmode : s.par.pollMode with
    | atomic => exact (exec_poll_of_atomic hmode).trans (pollAtomic_of_not_delayed hdelayed)
    | interleaved =>
      exact (exec_poll_of_interleaved hmode).trans (pollInterleaved_of_not_delayed hp hdelayed)
  | true =>
    obtain ⟨hen, hhd⟩ := Bool.and_eq_true_iff.1 hdelayed
    have hempty : s.rd = s.wr := by simpa [hen, hhd] using hnothing
    cases hmode : s.par.pollMode with
    | atomic => exact (exec_poll_of_atomic hmode).trans (pollAtomic_of_empty hempty)
    | interleaved =>
      exact (exec_poll_of_interleaved hmode).trans (pollInterleaved_of_empty hp hen hhd hempty)

/-! ### The leading due entries -/

theorem pollAtomic_of_nonempty {s : State} (hen : s.en = true) (hhd : s.hd = true) (hne : s.rd ≠ s.wr) :
    pollAtomic s =
      andThen (advance (nowOf s) s) fun s1 => .next (driveOut (parity s1.rd) s1) := by
  simp [pollAtomic, hen, hhd, hne]

theorem advanceLoop_ne_refused {fuel t : Nat} {s : State} {x : Refusal} :
    advanceLoop fuel t s ≠ .refused x := by
  induction fuel generalizing s with
  | zero => nofun
  | succ k ih =>
    unfold advanceLoop
    split
    · nofun
    · split
      · nofun
      · split
        · exact ih
        · nofun

/-- R34, R124: over a written ring range `ADV` completes. -/
theorem advance_completes {s : State} (h : QueueSound s) (hidle : s.dph = .idle) (t : Nat) :
    ∃ s', advance t s = .next s' := by
  obtain ⟨-, hnofault⟩ := h.advanceLoop t hidle (occupancy_lt h.inv.capacity_pos)
  cases hadv : advance t s with
  | next s' => exact ⟨s', rfl⟩
  | fault f => exact absurd hadv (hnofault f)
  | refused x => exact absurd hadv advanceLoop_ne_refused

theorem exists_read_of_dueAt {t k : Nat} {s : State} {b : Bool} (h : dueAt t s k = some b) :
    ∃ ts, Memory.read s.slots ((s.rd + k) % s.par.n) = some ts ∧ due s.par.w ts t = b :=
  Option.map_eq_some_iff.1 h

/-- Settles O25: `ADV` completes, and the entries it pops are the leading due ones. -/
theorem pollPopsDuePrefix : Obligations.PollPopsDuePrefix := by
  intro s hi hring hmode hen hhd hne
  have hidle := hi.atomicIdle hmode
  obtain ⟨s1, hadv⟩ := advance_completes ⟨hi, hring, popCoherent_of_idle hidle⟩ hidle (nowOf s)
  obtain ⟨p, hpops, hprefix⟩ := advanceLoop_pops hi.reader hi.writer hadv
  refine ⟨p, hpops.shown, ?_, fun j hj => exists_read_of_dueAt (hprefix.isDue j hj),
    fun hlt => exists_read_of_dueAt (hprefix.stops hlt)⟩
  rw [exec_poll_of_atomic hmode, pollAtomic_of_nonempty hen hhd hne, hadv, andThen_next,
    advanceLoop_frame hadv, hpops.reader]
  rfl

/-! ### The refinement of R171 -/

/-- The state of ATOMIC mode that a state `s` inside an INTERLEAVED iteration from `s0` stands for: the phase and
the locals are those of `s0`. -/
def atomicView (s0 s : State) : State :=
  { s with
    par := { s.par with pollMode := .atomic }, dph := s0.dph, rL := s0.rL, tL := s0.tL, pL := s0.pL }

section Refinement

variable {s : State} (s0 : State) (hi : Inv s) (hmode : s.par.pollMode = .interleaved)
include hi hmode

/-- R168, R169: a TEST that chooses PAR is followed by the drive of the reader parity. -/
theorem pollInterleaved_of_stop (h : MicroMove s { s with rL := some s.rd, dph := .par }) :
    andThen (pollInterleaved s) (fun a => .next (atomicView s0 a)) =
      .next (driveOut (parity s.rd) (atomicView s0 s)) := by
  have hi1 := hi.microMove hmode h
  rw [pollInterleaved_of_move hi hmode h nofun, pollInterleaved_of_move hi1 hmode (.readParity rfl) nofun,
    pollInterleaved_of_last (.drive _ rfl rfl) rfl]
  rfl

/-- R166, R167: from TEST on, an iteration turns as the loop of `ADV` does, and then drives the output. -/
theorem pollInterleaved_eq_advanceLoop {fuel t : Nat} (hp : s.dph = .test) (ht : s.tL = some t)
    (hfuel : occupancy s < fuel) :
    andThen (pollInterleaved s) (fun a => .next (atomicView s0 a)) =
      andThen (advanceLoop fuel t (atomicView s0 s)) fun c => .next (driveOut (parity c.rd) c) := by
  induction fuel generalizing s with
  | zero => omega
  | succ k ih =>
    unfold advanceLoop
    split
    · next hmeet => exact pollInterleaved_of_stop s0 hi hmode (.drained hp hmeet)
    · next hne =>
      split
      · next f hread => rw [pollInterleaved_of_fault (microStep_of_head_fault hp hne ht hread)]; rfl
      · next ts hts =>
        split <;> rename_i hdue
        · have htake : MicroMove s { s with rL := some s.rd, dph := .commit } :=
            .take t ts hp hne ht hts hdue
          have hpop : MicroMove { s with rL := some s.rd, dph := .commit }
              { s with rL := some s.rd, rd := inc s.par.n s.rd, dph := .test } := .pop s.rd rfl rfl
          have hi1 := hi.microMove hmode htake
          have hless : occupancy { s with rd := inc s.par.n s.rd } = occupancy s - 1 := by
            rw [occupancy_pop hi.reader hi.writer]
            exact if_neg hne
          rw [pollInterleaved_of_move hi hmode htake nofun, pollInterleaved_of_move hi1 hmode hpop nofun]
          have hsome : occupancy s ≠ 0 := (occupancy_eq_zero_iff hi.reader hi.writer).not.2 hne
          exact ih (hi1.microMove hmode hpop) hmode rfl ht (hless.trans_lt (by omega))
        · exact pollInterleaved_of_stop s0 hi hmode (.wait t ts hp hne ht hts (Bool.eq_false_iff.2 hdue))

/-- R163 to R165: IDLE, SNAP and TIME lead to TEST with the clock value of the POLL. -/
theorem pollInterleaved_eq_pollAtomic (hp : s.dph = .idle) (hen : s.en = true) (hhd : s.hd = true)
    (hne : s.rd ≠ s.wr) :
    andThen (pollInterleaved s) (fun a => .next (atomicView s a)) = pollAtomic (atomicView s s) := by
  have hstart : MicroMove s { s with dph := .snap } := .start hp hen hhd
  have hsnap : MicroMove { s with dph := .snap } { s with dph := .time } := .nonempty rfl hne
  have htime : MicroMove { s with dph := .time } { s with tL := some (nowOf s), dph := .test } := .sample rfl
  have hi1 := hi.microMove hmode hstart
  have hi2 := hi1.microMove hmode hsnap
  rw [pollInterleaved_of_move hi hmode hstart nofun, pollInterleaved_of_move hi1 hmode hsnap nofun,
    pollInterleaved_of_move hi2 hmode htime nofun,
    pollAtomic_of_nonempty (s := atomicView s s) hen hhd hne]
  exact pollInterleaved_eq_advanceLoop s (hi2.microMove hmode htime) hmode rfl rfl
    (occupancy_lt hi.capacity_pos)

end Refinement

/-- The invariant reads the mode only to ask for `DPH = IDLE`. -/
theorem Inv.withPollMode {s : State} (hi : Inv s) (hp : s.dph = .idle) (mode : PollMode) :
    Inv { s with par := { s.par with pollMode := mode } } :=
  ⟨hi.params, hi.reader, hi.writer, hi.slotsWf, hi.slotsBounded, hi.config, hi.overflow, hi.noCounter,
    fun _ => hp, hi.locals, hi.readerLocal, hi.timeLocal⟩

/-- Settles O26: with nothing to do both modes keep the state, and otherwise the iteration is the ATOMIC
POLL up to the locals. -/
theorem interleavedPollRefinesAtomic : Obligations.InterleavedPollRefinesAtomic := by
  intro s hi hp si sa
  have hii : Inv si := hi.withPollMode hp .interleaved
  by_cases hnothing : s.en = false ∨ s.hd = false ∨ s.rd = s.wr
  · rw [pollIdleWhenNothingToDo si hp hnothing, pollIdleWhenNothingToDo sa hp hnothing]
  · obtain ⟨hen, hhd, hne⟩ : s.en = true ∧ s.hd = true ∧ s.rd ≠ s.wr := by simpa using hnothing
    have hrefines : andThen (pollInterleaved si) (fun a => .next (atomicView si a)) = pollAtomic sa :=
      pollInterleaved_eq_pollAtomic hii rfl hp hen hhd hne
    rw [exec_poll_of_interleaved (s := si) rfl, exec_poll_of_atomic (s := sa) rfl, ← hrefines]
    obtain ⟨a, hnext⟩ | ⟨i, -, -, hfault⟩ := pollInterleaved_answers hii rfl
    · have hend : a.dph = si.dph := (iterate_ends_idle hnext).trans hp.symm
      have hpar : a.par = si.par := by rw [iterate_frame hnext]
      simp [hnext, atomicView, hpar, hend, si, sa]
    · rw [hfault]
      rfl

/-! ### The output in ATOMIC mode -/

theorem OutputFollowsReader.sameBlock {s s1 : State} (ho : OutputFollowsReader s) (h : SameBlock s s1) :
    OutputFollowsReader s1 := by
  obtain ⟨_, _, _, _, _, _, rfl⟩ := h
  exact ho

/-- Settles O52: a step is a stimulus taken after the plan or the draw is advanced. -/
theorem atomicOutputFollowsReader : Obligations.AtomicOutputFollowsReader := by
  intro s s' _ hmode ho h
  have hplan := sameBlock_nextStimulus s
  have ho1 : OutputFollowsReader (nextStimulus s).2 := OutputFollowsReader.sameBlock ho hplan
  exact ho1.takeStimulus (hplan.par ▸ hmode) h

end Sys2Proof.Safety
end

section
/-! PROOFS. The configuration channel: what CFG of a byte does, and that disabling and enabling again resets
the queue (45_config_channel.md R180, R182, R186). -/

namespace Sys2Proof.Safety

open Sys2Proof.Machine

/-! ### The byte of a CFG command -/

/-- R180: the word of `CFG c` decodes to a command that carries `c`. -/
theorem configByteOf_decode_configWord (c : ConfigByte) : configByteOf (decode (configWord c)) = some c := by
  rw [configWord, decode_of_cfg (Laws.CfgWord.opField_append _ c), dataField_append]
  exact configByteOf_decodeConfigByte c

/-- The bytes R181 and R182 ignore: those below `0x20`, and under IGNORE those from `0x60` on. -/
theorem flagLoaded_eq_ite (p : Params) (c : ConfigByte) :
    flagLoaded p c =
      if c.toNat < 0x20 ∨ (0x60 ≤ c.toNat ∧ p.highPolicy = .ignore) then none else some (flagOf c) := by
  by_cases hign : c.toNat < 0x20
  · simp [flagLoaded, classOf, hign]
  by_cases hload : c.toNat < 0x60
  · simp [flagLoaded, classOf, hign, hload]
  · cases hpolicy : p.highPolicy <;> simp [flagLoaded, classOf, hign, hload, hpolicy]

/-- R74 as a number. -/
theorem flagOf_eq_ofNat {c : ConfigByte} (h : 0x20 ≤ c.toNat) :
    flagOf c = BitVec.ofNat 6 ((c.toNat - 0x20) % 64) := by
  obtain ⟨-, -, hnum, -⟩ := flagOfByte c h
  rw [← hnum, BitVec.ofNat_toNat, BitVec.setWidth_eq]

theorem exec_of_ignored {i : Instr} {c : ConfigByte} {s : State} (hc : configByteOf i = some c)
    (h : flagLoaded s.par c = none) : exec i s = .next s := by
  rw [exec_of_configByteOf hc, serveByte_ignored h]

theorem exec_of_loaded {i : Instr} {c : ConfigByte} {f : Flag} {s : State} (hc : configByteOf i = some c)
    (h : flagLoaded s.par c = some f) : exec i s = .next (configure f s) := by
  rw [exec_of_configByteOf hc, serveByte_loaded h]

/-- Settles O34: a byte is ignored or loads its flag, and `configure` is the reconfiguration written out. -/
theorem cfgIgnoresOrReconfigures : Obligations.CfgIgnoresOrReconfigures := by
  refine ⟨configByteOf_decode_configWord, fun s i c hc => ?_⟩
  have hflag := flagLoaded_eq_ite s.par c
  split at hflag <;> rename_i hcase
  · exact (exec_of_ignored hc hflag).trans (if_pos hcase).symm
  · rw [flagOf_eq_ofNat (by omega)] at hflag
    exact (exec_of_loaded hc hflag).trans (if_neg hcase).symm

/-! ### Disabling and enabling again -/

/-- R100: without bit 5 a flag disables. -/
theorem decodeFlag_disabled (p : Params) (f : Flag) : (decodeFlag p (f &&& 0x1F#6)).enabled = false := by
  have hlow : (f &&& 0x1F#6).toNat ≤ 0x1F := by
    rw [BitVec.toNat_and]
    exact Nat.and_le_right
  rw [decodeFlag_enabled, decide_eq_false_iff_not]
  omega

/-- Settles O35: each byte is a `configure`, and the second overwrites all that the first configured. -/
theorem disableThenEnableRoundTrip : Obligations.DisableThenEnableRoundTrip :=
  fun s f _ _ _ _ _ hc1 hc2 hdisable henable =>
    ⟨configure (f &&& 0x1F#6) s, configure f (configure (f &&& 0x1F#6) s), exec_of_loaded hc1 hdisable,
      exec_of_loaded hc2 henable, decodeFlag_disabled s.par f, rfl, rfl, rfl, rfl⟩

end Sys2Proof.Safety
end

section
/-! PROOFS. Disabled mode: no command emits, and an edge that arrives and is serviced there leaves nothing
behind (45_config_channel.md R187, 60_exceptions.md R211, 70_reset_and_hazards.md R232). -/

namespace Sys2Proof.Safety

open Sys2Proof.Machine

/-! ### An edge arrives and is serviced -/

theorem runEvents_singleton (e : Event) (s : State) : runEvents [e] s = runEvent e s := by
  rw [runEvents_cons]
  cases runEvent e s <;> rfl

/-- R204: the service of a rising edge clears its bit and is RISE. -/
theorem service_rise {s : State} (h : mayService s .rise = true) :
    service .rise s = execRise (acceptSource .rise s) :=
  if_pos h

/-- R204: the service of a falling edge clears its bit and is FALL. -/
theorem service_fall {s : State} (h : mayService s .fall = true) :
    service .fall s = execFall (acceptSource .fall s) :=
  if_pos h

/-- In whatever mode, the pending bit an arrival sets is gone after the service: what is left is the handler. -/
theorem edgeRise_then_service {s : State} (hclear : s.pendRise = false)
    (hmay : mayService (edgeArrives .on s) .rise = true) :
    runEvents [.edgeRise, .service .rise] s = exec .rise s := by
  have haccept : acceptSource .rise (edgeArrives .on s) = s :=
    congrArg (fun pending => { s with pendRise := pending }) hclear.symm
  calc runEvents [.edgeRise, .service .rise] s
      = service .rise (edgeArrives .on s) := runEvents_singleton _ _
    _ = execRise s := by rw [service_rise hmay, haccept]

theorem edgeFall_then_service {s : State} (hclear : s.pendFall = false)
    (hmay : mayService (edgeArrives .off s) .fall = true) :
    runEvents [.edgeFall, .service .fall] s = exec .fall s := by
  have haccept : acceptSource .fall (edgeArrives .off s) = s :=
    congrArg (fun pending => { s with pendFall := pending }) hclear.symm
  calc runEvents [.edgeFall, .service .fall] s
      = service .fall (edgeArrives .off s) := runEvents_singleton _ _
    _ = execFall s := by rw [service_fall hmay, haccept]

/-! ### Disabled mode -/

/-- R163: outside delayed mode no iteration starts. -/
theorem exec_pstep_of_not_delayed {s : State} (hmode : s.par.pollMode = .interleaved) (hp : s.dph = .idle)
    (h : (s.en && s.hd) = false) : exec .pstep s = .next s := by
  rw [exec_pstep_of_move hmode (.rest hp h), with_dph_eq_self hp]

/-- Settles O53: the commands by their disabled case, and an edge arrived and serviced by its command. -/
theorem disabledModeEmitsNothing : Obligations.DisabledModeEmitsNothing := by
  intro s hen
  obtain ⟨hrise, hfall⟩ := (edgesOutsideDelayedMode s).1 hen
  have hnotDelayed : (s.en && s.hd) = false := by rw [hen, Bool.false_and]
  exact ⟨hrise, hfall,
    fun hp => ⟨pollIdleWhenNothingToDo s hp (.inl hen),
      fun hmode => exec_pstep_of_not_delayed hmode hp hnotDelayed⟩,
    fun hclear hmay => (edgeRise_then_service hclear hmay).trans hrise,
    fun hclear hmay => (edgeFall_then_service hclear hmay).trans hfall⟩

end Sys2Proof.Safety
end

section
/-! PROOFS. The decoder on the words that are refused, and how many of the 2048 words are which
(46_idle_and_reserved.md R191, R192, R194, R196). -/

namespace Sys2Proof

/-! ### The fields of a refused word -/

/-- The number of two bit vectors set one before the other. -/
theorem toNat_append_eq_add {v l : Nat} (x : BitVec v) (y : BitVec l) :
    (x ++ y).toNat = x.toNat * 2 ^ l + y.toNat := by
  rw [BitVec.toNat_append, ← Nat.shiftLeft_add_eq_or_of_lt y.isLt, Nat.shiftLeft_eq]

/-- R191: the bits 10 and 9 of a word belong to its operation. -/
theorem reservedBits_eq (w : CmdWord) : w.extractLsb' 9 2 = (opField w).extractLsb' 1 2 :=
  (extractLsb'_extractLsb' w (t := 1) (m := 2) (by decide : 1 + 2 ≤ 3)).symm

/-- R192: the operations that take no data. -/
def noDataOps : List (BitVec 3) := [0b000#3, 0b001#3, 0b010#3, 0b011#3, 0b101#3]

/-- R71: an operation that is neither CFG nor reserved takes no data. -/
theorem mem_noDataOps_of_ne {op : BitVec 3} (hcfg : op ≠ 0b100#3) (hres : ¬(op = 0b110#3 ∨ op = 0b111#3)) :
    op ∈ noDataOps := by
  revert op
  decide

/-- R192: the `NONZERO_DATA` rows with the data `d`. -/
def nonzeroDataRows (d : BitVec 8) : List Instr :=
  [.nonzeroNop d, .nonzeroPoll d, .nonzeroRise d, .nonzeroFall d, .nonzeroPstep d]

theorem decode_mem_nonzeroDataRows {w : CmdWord} (hop : opField w ∈ noDataOps) (hd : dataField w ≠ 0x00#8) :
    decode w ∈ nonzeroDataRows (dataField w) := by
  simp only [noDataOps, List.mem_cons, List.not_mem_nil, or_false] at hop
  rcases hop with h | h | h | h | h
  · simp [decode_of_nop h, noDataInstr, hd, nonzeroDataRows]
  · simp [decode_of_poll h, noDataInstr, hd, nonzeroDataRows]
  · simp [decode_of_rise h, noDataInstr, hd, nonzeroDataRows]
  · simp [decode_of_fall h, noDataInstr, hd, nonzeroDataRows]
  · simp [decode_of_pstep h, noDataInstr, hd, nonzeroDataRows]

/-! ### Counting words by their fields -/

/-- How many of the 256 words of an operation have a property. -/
def countOfOperation (p : CmdWord → Bool) (op : BitVec 3) : Nat :=
  (List.range 256).countP fun d => p (op ++ BitVec.ofNat 8 d)

/-- R70: the numbers of an operation's words follow one another. -/
theorem ofNat_word (op : Nat) {d : Nat} (hd : d < 256) :
    BitVec.ofNat 11 (256 * op + d) = BitVec.ofNat 3 op ++ BitVec.ofNat 8 d := by
  apply BitVec.eq_of_toNat_eq
  rw [toNat_append_eq_add, BitVec.toNat_ofNat, BitVec.toNat_ofNat, BitVec.toNat_ofNat]
  omega

theorem countP_words_below (p : CmdWord → Bool) (n : Nat) :
    (List.range (256 * n)).countP (fun k => p (BitVec.ofNat 11 k)) =
      ∑ op ∈ Finset.range n, countOfOperation p (BitVec.ofNat 3 op) := by
  induction n with
  | zero => rfl
  | succ n ih =>
    rw [Nat.mul_succ, List.range_add, List.countP_append, ih, List.countP_map, Finset.sum_range_succ,
      countOfOperation]
    congr 1
    refine List.countP_congr fun d hd => ?_
    rw [Function.comp_apply, ofNat_word n (List.mem_range.1 hd)]

/-- An operation whose words with data are all alike: the word without data, and 255 others. -/
theorem countOfOperation_eq {p : CmdWord → Bool} {op : BitVec 3} {b : Bool}
    (h : ∀ d : BitVec 8, d ≠ 0x00#8 → p (op ++ d) = b) :
    countOfOperation p op = (p (op ++ 0x00#8)).toNat + 255 * b.toNat := by
  have hdata : ∀ d ∈ List.range 255, p (op ++ BitVec.ofNat 8 d.succ) = b := fun d hd => by
    have hlt := List.mem_range.1 hd
    refine h _ fun hzero => ?_
    have hnat := congrArg BitVec.toNat hzero
    simp only [BitVec.toNat_ofNat] at hnat
    omega
  rw [countOfOperation, List.range_succ_eq_map, List.countP_cons, List.countP_map,
    List.countP_congr (q := fun _ => b) fun d hd => by rw [Function.comp_apply, hdata d hd]]
  cases b <;> cases p (op ++ 0x00#8) <;> simp

/-- How many words have a property that looks at the operation and at whether there is data. -/
def countByFields (f : BitVec 3 → Bool → Bool) : Nat :=
  ∑ op ∈ Finset.range 8, ((f (BitVec.ofNat 3 op) false).toNat + 255 * (f (BitVec.ofNat 3 op) true).toNat)

theorem countP_words (p : CmdWord → Bool) (f : BitVec 3 → Bool → Bool)
    (h : ∀ w, p w = f (opField w) (dataField w != 0x00#8)) :
    (List.range 2048).countP (fun k => p (BitVec.ofNat 11 k)) = countByFields f := by
  have hword : ∀ (op : BitVec 3) (d : BitVec 8), p (op ++ d) = f op (d != 0x00#8) := fun op d => by
    rw [h, Laws.CfgWord.opField_append, dataField_append]
  refine (countP_words_below p 8).trans (Finset.sum_congr rfl fun op _ => ?_)
  rw [countOfOperation_eq fun d hd => (hword _ d).trans (by rw [bne_iff_ne.2 hd]), hword]
  rfl

/-! ### What `DecodeCmd` answers -/

/-- The answer to a word of an operation other than CFG: codes 1 and 2 come before the command (R194). -/
def answerOutsideCfg (mode : PollMode) (op : BitVec 3) (hasData : Bool) : Except DecodeReject Instr :=
  if op = 0b110#3 ∨ op = 0b111#3 then .error .reservedOp
  else if hasData then .error .nonzeroData
  else decodeCmd mode (op ++ 0x00#8)

section DecodeCmd
variable {w : CmdWord} (mode : PollMode)

/-- R191: code 1, whatever the data. -/
theorem decodeCmd_of_reserved (h : opField w = 0b110#3 ∨ opField w = 0b111#3) :
    decodeCmd mode w = .error .reservedOp := by
  simp [decodeCmd, decode_of_reserved (opField_reserved_iff.1 h)]

/-- R192: code 2, in both modes. -/
theorem decodeCmd_of_nonzeroData (hop : opField w ∈ noDataOps) (hd : dataField w ≠ 0x00#8) :
    decodeCmd mode w = .error .nonzeroData := by
  have hrow := decode_mem_nonzeroDataRows hop hd
  simp only [nonzeroDataRows, List.mem_cons, List.not_mem_nil, or_false] at hrow
  rcases hrow with h | h | h | h | h <;> simp [decodeCmd, h]

/-- R195: a CFG word is legal, whatever its byte. -/
theorem decodeCmd_of_cfg (h : opField w = 0b100#3) :
    decodeCmd mode w = .ok (decodeConfigByte (dataField w)) := by
  have hbyte := configByteOf_decodeConfigByte (dataField w)
  unfold decodeCmd
  rw [decode_of_cfg h]
  cases hi : decodeConfigByte (dataField w) <;> simp [hi, configByteOf] at hbyte ⊢

theorem decodeCmd_of_not_cfg (h : opField w ≠ 0b100#3) :
    decodeCmd mode w = answerOutsideCfg mode (opField w) (dataField w != 0x00#8) := by
  unfold answerOutsideCfg
  split
  case isTrue hres => exact decodeCmd_of_reserved mode hres
  case isFalse hres =>
    split
    case isTrue hd => exact decodeCmd_of_nonzeroData mode (mem_noDataOps_of_ne h hres) (bne_iff_ne.1 hd)
    case isFalse hd =>
      have hzero : dataField w = 0x00#8 := by simpa using hd
      rw [← hzero, append_dataField rfl]

end DecodeCmd

/-! ### Counting answers -/

/-- A question about the answer to a word, put to its fields, when `b` is what it says of all CFG commands. -/
def askByFields (mode : PollMode) (q : Except DecodeReject Instr → Bool) (b : Bool) (op : BitVec 3)
    (hasData : Bool) : Bool :=
  if op = 0b100#3 then b else q (answerOutsideCfg mode op hasData)

theorem countP_decodeCmd (mode : PollMode) {q : Except DecodeReject Instr → Bool} {b : Bool}
    (hcfg : ∀ i, (configByteOf i).isSome = true → q (.ok i) = b) :
    (List.range 2048).countP (fun k => q (decodeCmd mode (BitVec.ofNat 11 k))) =
      countByFields (askByFields mode q b) := by
  refine countP_words (fun w => q (decodeCmd mode w)) _ fun w => ?_
  unfold askByFields
  split
  case isTrue h =>
    rw [decodeCmd_of_cfg mode h]
    exact hcfg _ (Option.isSome_of_eq_some (configByteOf_decodeConfigByte _))
  case isFalse h => rw [decodeCmd_of_not_cfg mode h]

/-- A CFG command is none of the commands without a byte. -/
theorem beq_of_configByteOf_none {command : Instr} (h : configByteOf command = none) :
    ∀ i, (configByteOf i).isSome = true → (i == command) = false := by
  refine fun i hi => beq_eq_false_iff_ne.2 fun heq => ?_
  simp [heq, h] at hi

/-- Settles O4: CFG words all give the same answer to each question, and the rest is a sum over the
operations, of one word without data and 255 with data. -/
theorem countsOfTheWords : Obligations.CountsOfTheWords := by
  unfold Obligations.CountsOfTheWords
  intro words count accepts rejects
  have hcount : ∀ mode q b, (∀ i, (configByteOf i).isSome = true → q (.ok i) = b) →
      count mode q = countByFields (askByFields mode q b) := fun mode _ _ => countP_decodeCmd mode
  have hcommand : ∀ mode command, configByteOf command = none → count mode (accepts (· == command)) =
      countByFields (askByFields mode (accepts (· == command)) false) :=
    fun mode _ h => hcount mode _ false (beq_of_configByteOf_none h)
  have hreject : ∀ mode e, count mode (rejects e) = countByFields (askByFields mode (rejects e) false) :=
    fun mode _ => hcount mode _ false fun _ _ => rfl
  refine ⟨(hcommand _ .nop rfl).trans ?_, (hcommand _ .poll rfl).trans ?_, (hcommand _ .rise rfl).trans ?_,
    (hcommand _ .fall rfl).trans ?_, (hcount _ _ true fun _ => id).trans ?_, (hcommand _ .pstep rfl).trans ?_,
    (hreject _ _).trans ?_, (hreject _ _).trans ?_, (hreject _ _).trans ?_, (hcommand _ .pstep rfl).trans ?_,
    (hreject _ _).trans ?_⟩ <;> decide

end Sys2Proof
end

section
/-! PROOFS. The meaning of NOP and of the refused words (46_idle_and_reserved.md R190 to R193). -/

namespace Sys2Proof.Machine

/-- Settles O20: `0x000` is the word of operation `000` without data, and NOP the identity. -/
theorem nopChangesNothing : Obligations.NopChangesNothing :=
  ⟨decode_of_nop (w := 0x000#11) rfl, fun _ => rfl⟩

theorem exec_reservedOp (x : BitVec 9) (s : State) :
    exec (.reservedOp x) s = .refused (.reservedOp (encode (.reservedOp x))) := rfl

/-- Each of the five rows refuses with its own word. -/
theorem exec_of_mem_nonzeroDataRows {i : Instr} {d : BitVec 8} (h : i ∈ nonzeroDataRows d) (s : State) :
    exec i s = .refused (.nonzeroData (encode i)) := by
  simp only [nonzeroDataRows, List.mem_cons, List.not_mem_nil, or_false] at h
  rcases h with rfl | rfl | rfl | rfl | rfl <;> rfl

theorem exec_pstep_of_atomic {s : State} (hmode : s.par.pollMode = .atomic) :
    exec .pstep s = .refused (.pstepInAtomic (encode .pstep)) := by
  simp [exec, execPstep, hmode]

/-- Settles O5: the row keeps the low nine bits, so the refusal's word is the one presented. -/
theorem reservedOperationsRefused : Obligations.ReservedOperationsRefused := by
  refine ⟨fun w hop s => ?_, exec_reservedOp, fun _ => rfl, ?_⟩
  · have hbits := opField_reserved_iff.1 hop
    rw [decode_of_reserved hbits, exec_reservedOp, encode_reservedOp hbits]
  · exact (countP_words (fun w => w.extractLsb' 9 2 == 0b11#2) (fun op _ => op.extractLsb' 1 2 == 0b11#2)
      fun w => by rw [reservedBits_eq]).trans (by decide)

/-- Settles O6: the word decodes to one of the five rows, whose refusal records the word it stands for. -/
theorem nonzeroDataRefused : Obligations.NonzeroDataRefused := by
  refine ⟨fun w hop hd s => ?_, fun d s => ⟨rfl, rfl, rfl, rfl, rfl⟩, fun _ => rfl, ?_⟩
  · rw [exec_of_mem_nonzeroDataRows (decode_mem_nonzeroDataRows hop hd), (decode_wf_encode w).2]
  · exact (countP_words (fun w => opField w != 0b100#3 && w.extractLsb' 9 2 != 0b11#2 && dataField w != 0#8)
      (fun op hasData => op != 0b100#3 && op.extractLsb' 1 2 != 0b11#2 && hasData)
      fun w => by rw [reservedBits_eq]).trans (by decide)

/-- Settles O7: `0x500` is PSTEP. -/
theorem pstepRefusedInAtomicMode : Obligations.PstepRefusedInAtomicMode :=
  ⟨fun _ => exec_pstep_of_atomic, fun _ => rfl⟩

end Sys2Proof.Machine
end

section
/-! PROOFS. Configuration bytes that are ignored and not refused (46_idle_and_reserved.md R195). -/

namespace Sys2Proof.Safety

open Sys2Proof.Machine

theorem exec_of_low_byte {i : Instr} {c : ConfigByte} (s : State) (hc : configByteOf i = some c)
    (hlow : c.toNat < 0x20) : exec i s = .next s :=
  exec_of_ignored hc ((flagLoaded_eq_ite _ _).trans (if_pos (.inl hlow)))

theorem exec_of_high_byte {i : Instr} {c : ConfigByte} {s : State} (hc : configByteOf i = some c)
    (hhigh : 0x60 ≤ c.toNat) (hpolicy : s.par.highPolicy = .ignore) : exec i s = .next s :=
  exec_of_ignored hc ((flagLoaded_eq_ite _ _).trans (if_pos (.inr ⟨hhigh, hpolicy⟩)))

/-- Settles O33: a row's fixed bits place its bytes below `0x20` or from `0x60` on. -/
theorem ignoredBytesChangeNothing : Obligations.IgnoredBytesChangeNothing := by
  refine ⟨fun c s => exec_of_low_byte s rfl ?_, fun c _ => exec_of_high_byte rfl ?_,
    fun c _ => exec_of_high_byte rfl ?_⟩
  · have hc : c.toNat < 0x20 := c.isLt
    exact (toNat_append_eq_add 0b000#3 c).trans_lt (by simpa using hc)
  · exact (Nat.le_add_right 0x60 c.toNat).trans_eq (toNat_append_eq_add 0b011#3 c).symm
  · exact (Nat.le_add_right_of_le (by decide)).trans_eq (toNat_append_eq_add 0b1#1 c).symm

end Sys2Proof.Safety
end

section
/-! PROOFS. The interrupt engine: what an arrival leaves pending, which source may be serviced, and what its
service is (60_exceptions.md R203, R204, R206). -/

namespace Sys2Proof.Safety

open Sys2Proof.Machine

/-! ### Arrivals -/

theorem with_pendRise_eq_self {s : State} {b : Bool} (h : s.pendRise = b) : { s with pendRise := b } = s := by
  rw [← h]

theorem with_pendFall_eq_self {s : State} {b : Bool} (h : s.pendFall = b) : { s with pendFall := b } = s := by
  rw [← h]

/-- Settles O37: an arrival writes one field, and a bit that is set already is written with its own value. -/
theorem edgeArrivalsCoalesce : Obligations.EdgeArrivalsCoalesce := fun _ =>
  ⟨rfl, rfl, fun hset => congrArg _ (with_pendRise_eq_self hset),
    fun hset => congrArg _ (with_pendFall_eq_self hset), fun _ => rfl⟩

/-! ### Which source may be serviced -/

/-- The first element of a list with a property is the one with the least index among those that have it. -/
theorem find?_eq_some_iff_idxOf_le {α : Type} [DecidableEq α] {p : α → Bool} {a : α} {l : List α} (ha : a ∈ l) :
    l.find? p = some a ↔ p a = true ∧ ∀ b, p b = true → l.idxOf a ≤ l.idxOf b := by
  induction l with
  | nil => cases ha
  | cons x xs ih =>
    cases hx : p x with
    | true =>
      rw [List.find?_cons_of_pos hx, Option.some.injEq]
      refine ⟨fun h => h ▸ ⟨hx, fun b _ => by simp⟩, fun ⟨_, hleast⟩ => ?_⟩
      have hzero : (x :: xs).idxOf a = 0 := by simpa using hleast x hx
      exact (List.idxOf_eq_zero_iff_head_eq (List.cons_ne_nil x xs)).1 hzero
    | false =>
      have hother : ∀ b, p b = true → x ≠ b := fun b hb heq => by simp [heq, hb] at hx
      rw [List.find?_cons_of_neg (by simp [hx])]
      by_cases hpa : p a = true
      case neg => exact iff_of_false (fun h => hpa (List.find?_some h)) fun h => hpa h.1
      rw [ih ((List.mem_cons.1 ha).resolve_left (hother a hpa).symm)]
      refine and_congr_right fun _ => forall₂_congr fun b hb => ?_
      rw [List.idxOf_cons_ne xs (hother a hpa), List.idxOf_cons_ne xs (hother b hb), Nat.succ_le_succ_iff]

theorem mem_orderList (src : Source) (o : SourceOrder) : src ∈ orderList o := by
  cases o <;> cases src <;> decide

theorem mayService_of_any {s : State} (h : s.par.serviceOrder = .any) (src : Source) :
    mayService s src = isPending s src := by
  simp [mayService, h]

theorem mayService_of_fixed {s : State} {o : SourceOrder} (h : s.par.serviceOrder = .fixed o) (src : Source) :
    mayService s src = true ↔ (orderList o).find? (isPending s) = some src := by
  simp [mayService, h]

/-- Settles O39: each fixed order lists every source, so the first pending one has the least index. -/
theorem serviceOrderRespected : Obligations.ServiceOrderRespected := fun _ src =>
  ⟨fun hany => by rw [mayService_of_any hany],
    fun o hfixed => (mayService_of_fixed hfixed src).trans (find?_eq_some_iff_idxOf_le (mem_orderList src o))⟩

theorem isPending_of_mayService {s : State} {src : Source} (h : mayService s src = true) :
    isPending s src = true := by
  cases horder : s.par.serviceOrder with
  | any => rwa [mayService_of_any horder] at h
  | fixed o => exact List.find?_some ((mayService_of_fixed horder src).1 h)

/-- Whether a source may be serviced turns on the parameters and on what is pending. -/
theorem mayService_congr {s t : State} (hpar : t.par = s.par) (hpending : isPending t = isPending s)
    (src : Source) : mayService t src = mayService s src := by
  rw [mayService, mayService, hpar, hpending]

/-! ### The service -/

/-- R204: the service of the receiver takes the oldest byte and serves it. -/
theorem service_rx {s : State} {c : ConfigByte} {cs : List ConfigByte} (h : mayService s .rx = true)
    (hq : s.serq = c :: cs) : service .rx s = .next (serveByte c { s with serq := cs }) := by
  simp [service, h, hq, acceptSource]

theorem service_of_not_mayService {s : State} {src : Source} (h : mayService s src = false) :
    service src s = .refused (.noServiceStep src) := by
  simp [service, h]

/-- Settles O38: by source, the receiver's handler being CFG of the byte it takes. -/
theorem serviceClearsAndRunsHandler : Obligations.ServiceClearsAndRunsHandler := fun _ =>
  ⟨service_rise, service_fall,
    fun c _ hmay hq => (service_rx hmay hq).trans (exec_of_configByteOf (configByteOf_decode_configWord c) _).symm,
    fun _ => service_of_not_mayService⟩

end Sys2Proof.Safety
end

section
/-! PROOFS. What commands and services leave unchanged: the platform's state by every command, the
dispatcher's by every service, and the clock and the parameters by both (60_exceptions.md R209, R210, R215,
70_reset_and_hazards.md R233). -/

namespace Sys2Proof.Safety

open Sys2Proof.Machine

/-! ### The platform -/

/-- `s'` differs from `s` in the block's own state at most: the parameters, the pending state, the clock and the
environment's plan are the same. -/
def SamePlatform (s s' : State) : Prop :=
  s' = { s with
    rd := s'.rd, wr := s'.wr, slots := s'.slots, en := s'.en, hd := s'.hd, lat := s'.lat, out := s'.out,
    ovfCount := s'.ovfCount, dph := s'.dph, rL := s'.rL, tL := s'.tL, pL := s'.pL }

theorem SamePlatform.serq {s s' : State} (h : SamePlatform s s') : s'.serq = s.serq := by rw [h]

theorem SamePlatform.clock {s s' : State} (h : SamePlatform s s') : s'.clock = s.clock := by rw [h]

/-- R140 to R142: an edge handler writes the writer, the slots, the overflow count and the output at most. -/
theorem edgeHandler_frame {role : Role} {level : Bool} {s s' : State} (h : edgeHandler role level s = .next s') :
    s' = { s with wr := s'.wr, slots := s'.slots, out := s'.out, ovfCount := s'.ovfCount } := by
  obtain ⟨-, rfl⟩ | ⟨-, rfl⟩ | ⟨-, henq⟩ := edgeHandler_cases h
  · rfl
  · rfl
  · rw [enqueue_frame henq]

/-- R180, R185: serving a byte writes the configuration, the cursors and the output at most. -/
theorem serveByte_frame (c : ConfigByte) (s : State) :
    serveByte c s = { s with
      rd := (serveByte c s).rd, wr := (serveByte c s).wr, en := (serveByte c s).en, hd := (serveByte c s).hd,
      lat := (serveByte c s).lat, out := (serveByte c s).out } := by
  cases hf : flagLoaded s.par c with
  | none => rw [serveByte_ignored hf]
  | some f => rw [serveByte_loaded hf]; rfl

theorem edgeHandler_samePlatform {role : Role} {level : Bool} {s s' : State}
    (h : edgeHandler role level s = .next s') : SamePlatform s s' := by
  rw [edgeHandler_frame h]
  rfl

theorem serveByte_samePlatform (c : ConfigByte) (s : State) : SamePlatform s (serveByte c s) := by
  rw [serveByte_frame]
  rfl

theorem execPoll_samePlatform {s s' : State} (h : execPoll s = .next s') : SamePlatform s s' := by
  rw [execPoll_frame h]
  rfl

theorem execPstep_samePlatform {s s' : State} (h : execPstep s = .next s') : SamePlatform s s' := by
  rw [microStep_frame (execPstep_eq_next.1 h).2]
  rfl

/-- R35: no command writes the platform's state. -/
theorem exec_samePlatform {i : Instr} {s s' : State} (h : exec i s = .next s') : SamePlatform s s' := by
  cases hc : configByteOf i with
  | some c => rw [exec_of_configByteOf hc] at h; cases h; exact serveByte_samePlatform c s
  | none =>
    cases i with
    | nop => cases h; rfl
    | poll => exact execPoll_samePlatform h
    | rise => exact edgeHandler_samePlatform (role := .on) h
    | fall => exact edgeHandler_samePlatform (role := .off) h
    | pstep => exact execPstep_samePlatform h
    | cfgIgn | cfgLoadLow | cfgLoadHigh | cfgHighLow | cfgHighTop => cases hc
    | reservedOp | nonzeroNop | nonzeroPoll | nonzeroRise | nonzeroFall | nonzeroPstep => cases h

/-- R209: of the platform's state a service changes what taking the source changes. -/
theorem service_samePlatform {src : Source} {s s' : State} (h : service src s = .next s') :
    SamePlatform (acceptSource src s) s' := by
  obtain ⟨-, ⟨rfl, hrise⟩ | ⟨rfl, hfall⟩ | ⟨rfl, c, cs, -, rfl⟩⟩ := service_cases h
  · exact edgeHandler_samePlatform hrise
  · exact edgeHandler_samePlatform hfall
  · exact serveByte_samePlatform c _

/-! ### The clock -/

/-- R215: the clock moves between events only. -/
theorem runEvent_clock {e : Event} {s s' : State} (h : runEvent e s = .next s') : s'.clock = s.clock := by
  cases e with
  | command w => exact (exec_samePlatform h).clock
  | service src => exact (service_samePlatform h).clock.trans (acceptSource_clock src s)
  | edgeRise | edgeFall | byteArrives c | powerOn => cases h; rfl

theorem takeStimulus_clock {st : Stimulus} {s s' : State} (h : takeStimulus st s = .next s') :
    s'.clock = s.clock + st.elapsed :=
  runEvent_clock (takeStimulus_eq_next.1 h).2

theorem nextStimulus_clock (s : State) : (nextStimulus s).2.clock = s.clock := by
  unfold nextStimulus
  split <;> rfl

/-- Settles O47: a stimulus, planned or drawn, adds its elapsed time to the clock, and no event moves it. -/
theorem clockAndParametersMonotone : Obligations.ClockAndParametersMonotone := by
  intro s s' h
  have hclock : s'.clock = (nextStimulus s).2.clock + (nextStimulus s).1.elapsed := takeStimulus_clock h
  rw [nextStimulus_clock] at hclock
  exact ⟨hclock ▸ Nat.le_add_right _ _, (takeStimulus_par h).trans (sameBlock_nextStimulus s).par⟩

/-! ### The dispatcher's state -/

/-- R142: with the writer in range an edge handler completes in every mode, and leaves the dispatcher alone. -/
theorem edgeHandler_completes (role : Role) (level : Bool) {s : State} (hp : paramsOk s.par = true)
    (hwr : s.wr < s.par.n) : ∃ s', edgeHandler role level s = .next s' ∧
      s'.dph = s.dph ∧ s'.rL = s.rL ∧ s'.tL = s.tL ∧ s'.pL = s.pL := by
  have hnext : ∃ s', edgeHandler role level s = .next s' := by
    unfold edgeHandler
    split
    · exact ⟨_, rfl⟩
    · obtain ⟨s', henq, -⟩ := enqueue_edgeWrites role (target s.par.w (nowOf s) s.lat) hp hwr
      exact ⟨s', henq⟩
    · exact ⟨_, rfl⟩
  obtain ⟨s', h⟩ := hnext
  refine ⟨s', h, ?_⟩
  rw [edgeHandler_frame h]
  exact ⟨rfl, rfl, rfl, rfl⟩

theorem serveByte_keeps_dispatcher (c : ConfigByte) (s : State) :
    (serveByte c s).dph = s.dph ∧ (serveByte c s).rL = s.rL ∧ (serveByte c s).tL = s.tL ∧
      (serveByte c s).pL = s.pL := by
  rw [serveByte_frame]
  exact ⟨rfl, rfl, rfl, rfl⟩

/-- Settles O41: the edge handlers complete, and a receiver that may be serviced has a byte to serve. -/
theorem serviceKeepsDispatcherState : Obligations.ServiceKeepsDispatcherState := by
  intro s src hp hwr hmay
  cases src with
  | rise =>
    obtain ⟨s', hnext, hkept⟩ := edgeHandler_completes .on true (s := acceptSource .rise s) hp hwr
    exact ⟨s', (service_rise hmay).trans hnext, hkept⟩
  | fall =>
    obtain ⟨s', hnext, hkept⟩ := edgeHandler_completes .off false (s := acceptSource .fall s) hp hwr
    exact ⟨s', (service_fall hmay).trans hnext, hkept⟩
  | rx =>
    have hpending := isPending_of_mayService hmay
    cases hq : s.serq with
    | nil => simp [isPending, hq] at hpending
    | cons c cs => exact ⟨_, service_rx hmay hq, serveByte_keeps_dispatcher c _⟩

end Sys2Proof.Safety
end

section
/-! PROOFS. Configuration bytes are serviced in arrival order, one per step (60_exceptions.md R207). -/

namespace Sys2Proof.Safety

open Sys2Proof.Machine

/-! ### One step -/

/-- R207: the receiver service takes the head of `SERQ` and leaves the rest. -/
theorem service_rx_takes_head {s s' : State} (h : service .rx s = .next s') :
    ∃ c, s.serq = c :: s'.serq ∧ s' = serveByte c { s with serq := s'.serq } := by
  have hrest : s'.serq = s.serq.tail := (service_samePlatform h).serq
  obtain ⟨-, ⟨hsrc, -⟩ | ⟨hsrc, -⟩ | ⟨-, c, cs, hq, hs'⟩⟩ := service_cases h
  · cases hsrc
  · cases hsrc
  · refine ⟨c, by rw [hrest, hq, List.tail_cons], ?_⟩
    rw [hrest]
    exact hs'

/-! ### Several bytes -/

theorem runEvents_byteArrives (bs : List ConfigByte) (s : State) :
    runEvents (bs.map .byteArrives) s = .next { s with serq := s.serq ++ bs } := by
  induction bs generalizing s with
  | nil => rw [List.append_nil]; rfl
  | cons b bs ih =>
    calc runEvents ((b :: bs).map .byteArrives) s
        = runEvents (bs.map .byteArrives) (byteArrives b s) := rfl
      _ = .next { s with serq := (s.serq ++ [b]) ++ bs } := ih _
      _ = .next { s with serq := s.serq ++ b :: bs } := by rw [List.append_assoc, List.singleton_append]

theorem serveByte_par (c : ConfigByte) (s : State) : (serveByte c s).par = s.par := by
  rw [serveByte_frame]

/-- Serving a byte does not look at the bytes that wait behind it. -/
theorem serveByte_with_serq (c : ConfigByte) (q : List ConfigByte) (s : State) :
    serveByte c { s with serq := q } = { serveByte c s with serq := q } := by
  cases hf : flagLoaded s.par c with
  | none => rw [serveByte_ignored hf, serveByte_ignored (s := { s with serq := q }) hf]
  | some f => rw [serveByte_loaded hf, serveByte_loaded (s := { s with serq := q }) hf]; rfl

/-- R206: as long as bytes wait, serving one does not change which source may be serviced. -/
theorem mayService_after_serveByte {c : ConfigByte} {q q' : List ConfigByte} {s : State} (hq : q ≠ [])
    (hq' : q' ≠ []) (src : Source) :
    mayService { serveByte c s with serq := q' } src = mayService { s with serq := q } src := by
  have hpending : isPending { serveByte c s with serq := q' } = isPending { s with serq := q } := by
    funext source
    rw [serveByte_frame]
    cases source with
    | rise | fall => rfl
    | rx => simp [isPending, List.isEmpty_eq_false_iff.2 hq, List.isEmpty_eq_false_iff.2 hq']
  exact mayService_congr (s := { s with serq := q }) (t := { serveByte c s with serq := q' }) (serveByte_par c s)
    hpending src

/-- The handlers of several bytes, the first one's first. -/
def serveBytes (bs : List ConfigByte) (s : State) : State := bs.foldl (fun t c => serveByte c t) s

theorem serveBytes_par (bs : List ConfigByte) (s : State) : (serveBytes bs s).par = s.par :=
  List.foldlRecOn bs _ (motive := fun t => t.par = s.par) rfl fun t ht c _ => (serveByte_par c t).trans ht

theorem serveBytes_concat (bs : List ConfigByte) (b : ConfigByte) (s : State) :
    serveBytes (bs ++ [b]) s = serveByte b (serveBytes bs s) :=
  List.foldl_append

/-- R207: as many services as `bs` has bytes serve `bs` from the front of `SERQ`, in order. -/
theorem runEvents_service_rx (bs cs : List ConfigByte) (s : State)
    (hmay : bs ≠ [] → mayService { s with serq := bs ++ cs } .rx = true) :
    runEvents (List.replicate bs.length (.service .rx)) { s with serq := bs ++ cs } =
      .next { serveBytes bs s with serq := cs } := by
  induction bs generalizing s with
  | nil => rfl
  | cons b bs ih =>
    have hmayFirst := hmay (List.cons_ne_nil b bs)
    have hserve : service .rx { s with serq := b :: bs ++ cs } =
        .next { serveByte b s with serq := bs ++ cs } :=
      (service_rx hmayFirst rfl).trans (congrArg _ (serveByte_with_serq b (bs ++ cs) s))
    have hmayRest : bs ≠ [] → mayService { serveByte b s with serq := bs ++ cs } .rx = true := fun hne =>
      (mayService_after_serveByte (List.cons_ne_nil b _) (List.append_ne_nil_of_left_ne_nil hne cs) .rx).trans
        hmayFirst
    calc runEvents (List.replicate (b :: bs).length (.service .rx)) { s with serq := b :: bs ++ cs }
        = andThen (service .rx { s with serq := b :: bs ++ cs })
            (runEvents (List.replicate bs.length (.service .rx))) := rfl
      _ = runEvents (List.replicate bs.length (.service .rx)) { serveByte b s with serq := bs ++ cs } := by
        rw [hserve, andThen_next]
      _ = .next { serveBytes bs (serveByte b s) with serq := cs } := ih _ hmayRest

/-- R180: after a loading byte the configuration is its `DECODE` result, whatever was served before. -/
theorem configuration_after_loaded (bs : List ConfigByte) {b : ConfigByte} {f : Flag} {s : State}
    (hf : flagLoaded s.par b = some f) :
    decodeFlag s.par f =
      ⟨(serveBytes (bs ++ [b]) s).en, (serveBytes (bs ++ [b]) s).hd, (serveBytes (bs ++ [b]) s).lat⟩ := by
  rw [← serveBytes_par bs s] at hf ⊢
  rw [serveBytes_concat, serveByte_loaded hf]
  rfl

/-- Settles O40: one step by its event, and several services by the bytes they take. -/
theorem bytesServedInArrivalOrder : Obligations.BytesServedInArrivalOrder := by
  refine ⟨fun s s' ⟨dt, e⟩ h => ?_, fun s bs => runEvents_byteArrives bs s, fun s bs cs hq hmay => ?_⟩
  · have hevent : runEvent e (advanceClock dt s) = .next s' := (takeStimulus_eq_next.1 h).2
    cases e with
    | command w => exact (exec_samePlatform hevent).serq
    | service src =>
      cases src with
      | rise | fall => exact (service_samePlatform hevent).serq
      | rx => exact service_rx_takes_head hevent
    | edgeRise | edgeFall | byteArrives c | powerOn => cases hevent; rfl
  · have hs : { s with serq := bs ++ cs } = s := by rw [← hq]
    have hrun := runEvents_service_rx bs cs s fun _ => by rwa [hs]
    rw [hs] at hrun
    refine ⟨_, hrun, rfl, ?_⟩
    rintro front b f rfl hf
    exact configuration_after_loaded front hf

end Sys2Proof.Safety
end

section
/-! PROOFS. The model's own stops: a micro-step on an unwritten local, a slot index outside the array
(10_state.md R30, 20_memory.md R55, 93_implementation_defined.md I3). -/

namespace Sys2Proof.Safety

open Sys2Proof.Machine

section Micro

variable {s : State}

theorem microStep_of_unwritten_time (hp : s.dph = .test) (hne : s.rd ≠ s.wr) (ht : s.tL = none) :
    microStep s = .fault (.unwrittenLocal .tL) := by
  simp [microStep, hp, stepTest, hne, ht]

theorem microStep_of_unwritten_reader (hp : s.dph = .commit) (hr : s.rL = none) :
    microStep s = .fault (.unwrittenLocal .rL) := by
  simp [microStep, hp, stepCommit, hr]

theorem microStep_of_unwritten_parity (hp : s.dph = .drive) (hb : s.pL = none) :
    microStep s = .fault (.unwrittenLocal .pL) := by
  simp [microStep, hp, stepDrive, hb]

end Micro

/-- Settles O60: PSTEP is the micro-step, and a slot access asks first whether the index is below `N`. -/
theorem stopsInStatesNoRunReaches : Obligations.StopsInStatesNoRunReaches := fun _ =>
  ⟨fun hmode hp hne ht => (exec_pstep_of_interleaved hmode).trans (microStep_of_unwritten_time hp hne ht),
    fun hmode hp hr => (exec_pstep_of_interleaved hmode).trans (microStep_of_unwritten_reader hp hr),
    fun hmode hp hb => (exec_pstep_of_interleaved hmode).trans (microStep_of_unwritten_parity hp hb),
    fun _ _ hout => ⟨if_neg hout.not_gt, if_neg hout.not_gt⟩⟩

end Sys2Proof.Safety
end

section
/-! PROOFS. Power-on reset in the course of a run, and the host's reset state (70_reset_and_hazards.md R230). -/

namespace Sys2Proof.Machine

/-- Settles O43: the reset keeps the clock that the stimulus has advanced, and the plan, which is set aside. -/
theorem powerOnResetKeepsClock : Obligations.PowerOnResetKeepsClock := fun s dt hp =>
  ⟨powerOnReset (advanceClock dt s), takeStimulus_eq_next.2 ⟨hp, rfl⟩, rfl⟩

/-- Settles O44: `State.reset` is defined as that power-on state, and R5 is checked on its parameters. -/
theorem resetIsPowerOn : Obligations.ResetIsPowerOn := ⟨rfl, by decide⟩

end Sys2Proof.Machine
end

section
/-! PROOFS. A loading CFG in the middle of an iteration: the COMMIT that undoes its reader reset and the DRIVE
that undoes its deassert (70_reset_and_hazards.md R239, R240). -/

namespace Sys2Proof.Safety

open Sys2Proof.Machine

/-- R204: the receiver service of a loading byte is the byte's reconfiguration. -/
theorem service_rx_of_loaded {s : State} {c : ConfigByte} {cs : List ConfigByte} {f : Flag}
    (hmay : mayService s .rx = true) (hq : s.serq = c :: cs) (hf : flagLoaded s.par c = some f) :
    runEvent (.service .rx) s = .next (configure f { s with serq := cs }) :=
  (service_rx hmay hq).trans (congrArg _ (serveByte_loaded hf))

/-! ### The lost reset -/

/-- The state that a COMMIT leaves when a CFG that loads `f` came after its TEST had read the reader `k`. -/
def afterLostReset (k : Nat) (f : Flag) (s : State) : State :=
  { configure f s with rd := inc s.par.n k, dph := .test }

@[simp] theorem afterLostReset_par (k : Nat) (f : Flag) (s : State) : (afterLostReset k f s).par = s.par := rfl
@[simp] theorem afterLostReset_rd (k : Nat) (f : Flag) (s : State) :
    (afterLostReset k f s).rd = inc s.par.n k := rfl
@[simp] theorem afterLostReset_wr (k : Nat) (f : Flag) (s : State) : (afterLostReset k f s).wr = 0 := rfl

section LostReset

variable {s : State} {k : Nat} (f : Flag)

/-- R185: the CFG leaves the phase and the local copy, so the COMMIT pops from the cursor before the reset. -/
theorem pstep_at_commit_after_configure (hmode : s.par.pollMode = .interleaved) (hp : s.dph = .commit)
    (hr : s.rL = some k) : exec .pstep (configure f s) = .next (afterLostReset k f s) :=
  exec_pstep_of_move hmode (.pop k hp hr)

/-- R239: with the writer at 0 all slots from the stale reader to the end of the array show. -/
theorem occupancy_afterLostReset (hk : k < s.par.n) : occupancy (afterLostReset k f s) = s.par.n - k - 1 := by
  have hn : 0 < s.par.n := Nat.zero_lt_of_lt hk
  rw [occupancy_eq_ite (s := afterLostReset k f s) (inc_lt hn k) hn, afterLostReset_rd, afterLostReset_wr,
    afterLostReset_par, inc_eq_ite hk]
  split_ifs <;> omega

theorem pstep_afterLostReset_faults {t : Nat} (hmode : s.par.pollMode = .interleaved) (ht : s.tL = some t)
    (hk : k + 1 < s.par.n) (hread : Memory.read s.slots (k + 1) = none) :
    exec .pstep (afterLostReset k f s) = .fault (.unwrittenSlotRead (k + 1)) := by
  have hreader : (afterLostReset k f s).rd = k + 1 := Nat.mod_eq_of_lt hk
  rw [exec_pstep_of_interleaved (s := afterLostReset k f s) hmode]
  refine microStep_of_head_fault rfl (hreader.trans_ne (Nat.succ_ne_zero k)) ht ?_
  rw [hreader]
  exact slotRead_unwritten hk hread

end LostReset

/-- Settles O54: as a command or as a service the byte is `configure`, which does not look at `SERQ`. -/
theorem lostReset : Obligations.LostReset := by
  intro s k c f _ hmode hp hr hk hf losesReset
  have hloses : ∀ q, losesReset (.next (configure f { s with serq := q })) := fun _ =>
    ⟨_, _, rfl, pstep_at_commit_after_configure f hmode hp hr, rfl, rfl, rfl, rfl, rfl,
      occupancy_afterLostReset f hk, fun _ ht hlt hread => pstep_afterLostReset_faults f hmode ht hlt hread⟩
  refine ⟨fun i hc => ?_, fun cs hq hmay => ?_⟩
  · rw [exec_of_loaded hc hf]
    exact hloses s.serq
  · rw [service_rx_of_loaded hmay hq hf]
    exact hloses cs

/-! ### The stale drive -/

/-- R185: the CFG leaves the phase and the parity that PAR read, so the DRIVE drives that parity. -/
theorem pstep_at_drive_after_configure {s : State} {b : Bool} (f : Flag) (hmode : s.par.pollMode = .interleaved)
    (hp : s.dph = .drive) (hb : s.pL = some b) :
    exec .pstep (configure f s) = .next { configure f s with out := b, dph := .idle } :=
  exec_pstep_of_move hmode (.drive b hp hb)

/-- Settles O55: as a command or as a service the byte is `configure`, and the DRIVE does not read the mode. -/
theorem staleDrive : Obligations.StaleDrive := by
  intro s c f hmode hp hb hf assertsAgain
  have hasserts : ∀ q, assertsAgain (.next (configure f { s with serq := q })) := fun _ =>
    ⟨_, _, rfl, pstep_at_drive_after_configure f hmode hp hb, rfl, rfl, rfl, rfl, rfl⟩
  refine ⟨fun i hc => ?_, fun cs hq hmay => ?_⟩
  · rw [exec_of_loaded hc hf]
    exact hasserts s.serq
  · rw [service_rx_of_loaded hmay hq hf]
    exact hasserts cs

end Sys2Proof.Safety
end

section
/-! PROOFS. A POLL at which every visible entry is due drains the queue and drives the parity of the writer, in
either mode (42_scheduler.md R124, 44_dispatcher.md R160 to R169). -/

namespace Sys2Proof.Safety

open Sys2Proof.Machine

/-- Every visible entry has been written and is due at `t`. -/
def AllDue (t : Nat) (s : State) : Prop :=
  ∀ e ∈ visible s, ∃ ts, e = some ts ∧ due s.par.w ts t = true

/-- Both cursors stand at `i`, and `OUT` shows its parity. -/
structure DrainedAt (i : Nat) (s : State) : Prop where
  reader : s.rd = i
  writer : s.wr = i
  output : s.out = parity i

section AllDue

variable {s : State} {t : Nat} (hrd : s.rd < s.par.n) (hwr : s.wr < s.par.n) (hall : AllDue t s)
include hrd hwr hall

theorem AllDue.head (hne : s.rd ≠ s.wr) : ∃ ts, slotRead s.rd s = .ok ts ∧ due s.par.w ts t = true := by
  have hsome : 0 < occupancy s := Nat.pos_of_ne_zero ((occupancy_eq_zero_iff hrd hwr).not.2 hne)
  obtain ⟨ts, hread, hdue⟩ := hall _ (List.mem_map_of_mem (List.mem_range.2 hsome))
  rw [Nat.add_zero, Nat.mod_eq_of_lt hrd] at hread
  exact ⟨ts, slotRead_ok.2 ⟨hrd, hread⟩, hdue⟩

theorem AllDue.pops {p : Nat} {s1 : State} (h : Pops p s s1) : AllDue t s1 := by
  intro e he
  rw [h.visible_eq hrd hwr] at he
  rw [h.par]
  exact hall e (List.mem_of_mem_drop he)

end AllDue

theorem with_rd_eq_self {s : State} {i : Nat} (h : s.rd = i) : { s with rd := i } = s := by
  rw [← h]

/-- R124: the loop of `ADV` stops at the writer only. -/
theorem advanceLoop_of_allDue {fuel t : Nat} {s : State} (hrd : s.rd < s.par.n) (hwr : s.wr < s.par.n)
    (hall : AllDue t s) (hfuel : occupancy s < fuel) :
    advanceLoop fuel t s = .next { s with rd := s.wr } := by
  induction fuel generalizing s with
  | zero => omega
  | succ fuel ih =>
    unfold advanceLoop
    split
    · next hmeet => rw [with_rd_eq_self hmeet]
    · next hne =>
      obtain ⟨ts, hts, hdue⟩ := hall.head hrd hwr hne
      have hpop : Pops 1 s { s with rd := inc s.par.n s.rd } := .one hrd hwr hne rfl rfl rfl rfl
      have hless := hpop.occupancy_eq hrd hwr
      have hshown := hpop.shown
      simp only [hts, hdue, if_true]
      exact ih (s := { s with rd := inc s.par.n s.rd }) (inc_lt (Nat.zero_lt_of_lt hrd) _) hwr
        (hall.pops hrd hwr hpop) (by omega)

/-- R166, R168, R169: TEST at an empty queue, PAR and DRIVE. -/
theorem iterate_of_empty (fuel : Nat) {s : State} (hp : s.dph = .test) (hmeet : s.rd = s.wr) :
    ∃ s', iterate (fuel + 3) s = .next s' ∧ DrainedAt s.wr s' := by
  have htest : MicroMove s { s with rL := some s.rd, dph := .par } := .drained hp hmeet
  rw [iterate_succ_of_move htest _ nofun, iterate_succ_of_move (.readParity rfl) _ nofun,
    iterate_succ_of_last (.drive _ rfl rfl) _ rfl]
  exact ⟨_, rfl, hmeet, rfl, congrArg parity hmeet⟩

/-- R166, R167: two micro-steps for every entry before those that end the iteration. -/
theorem iterate_of_allDue (fuel : Nat) {t : Nat} {s : State} (hp : s.dph = .test) (ht : s.tL = some t)
    (hrd : s.rd < s.par.n) (hwr : s.wr < s.par.n) (hall : AllDue t s) :
    ∃ s', iterate (fuel + 3 + 2 * occupancy s) s = .next s' ∧ DrainedAt s.wr s' := by
  induction hocc : occupancy s generalizing s with
  | zero => exact iterate_of_empty fuel hp ((occupancy_eq_zero_iff hrd hwr).1 hocc)
  | succ k ih =>
    have hne : s.rd ≠ s.wr := (occupancy_eq_zero_iff hrd hwr).not.1 (by omega)
    obtain ⟨ts, hts, hdue⟩ := hall.head hrd hwr hne
    have htake : MicroMove s { s with rL := some s.rd, dph := .commit } := .take t ts hp hne ht hts hdue
    have hcommit : MicroMove { s with rL := some s.rd, dph := .commit }
        { s with rL := some s.rd, rd := inc s.par.n s.rd, dph := .test } := .pop s.rd rfl rfl
    have hpop : Pops 1 s { s with rL := some s.rd, rd := inc s.par.n s.rd, dph := .test } :=
      .one hrd hwr hne rfl rfl rfl rfl
    rw [show fuel + 3 + 2 * (k + 1) = fuel + 3 + 2 * k + 1 + 1 from rfl,
      iterate_succ_of_move htake _ nofun, iterate_succ_of_move hcommit _ nofun]
    exact ih (s := { s with rL := some s.rd, rd := inc s.par.n s.rd, dph := .test }) rfl ht
      (inc_lt (Nat.zero_lt_of_lt hrd) _) hwr (hall.pops hrd hwr hpop)
      ((hpop.occupancy_eq hrd hwr).trans (by rw [hocc, Nat.add_sub_cancel]))

section Poll

variable {s : State} (hp : s.dph = .idle) (hen : s.en = true) (hhd : s.hd = true) (hrd : s.rd < s.par.n)
  (hwr : s.wr < s.par.n) (hne : s.rd ≠ s.wr) (hall : AllDue (nowOf s) s)
include hen hhd hrd hwr hne hall

theorem pollAtomic_of_allDue : ∃ s', pollAtomic s = .next s' ∧ DrainedAt s.wr s' := by
  rw [pollAtomic_of_nonempty hen hhd hne, advance,
    advanceLoop_of_allDue hrd hwr hall (occupancy_lt (Nat.zero_lt_of_lt hrd)), andThen_next]
  exact ⟨_, rfl, rfl, rfl, rfl⟩

include hp in
/-- R163 to R165: IDLE, SNAP and TIME lead to TEST with the clock value of the POLL. -/
theorem pollInterleaved_of_allDue : ∃ s', pollInterleaved s = .next s' ∧ DrainedAt s.wr s' := by
  have hstart : MicroMove s { s with dph := .snap } := .start hp hen hhd
  have hsnap : MicroMove { s with dph := .snap } { s with dph := .time } := .nonempty rfl hne
  have htime : MicroMove { s with dph := .time } { s with tL := some (nowOf s), dph := .test } := .sample rfl
  have hocc : occupancy s < s.par.n := occupancy_lt (Nat.zero_lt_of_lt hrd)
  obtain ⟨spare, hspare⟩ : ∃ spare, 2 * s.par.n + 1 = spare + 3 + 2 * occupancy s :=
    ⟨2 * (s.par.n - occupancy s - 1), by omega⟩
  rw [pollInterleaved, iterate_succ_of_move hstart _ nofun, iterate_succ_of_move hsnap _ nofun,
    iterate_succ_of_move htime _ nofun, hspare]
  exact iterate_of_allDue spare (s := { s with tL := some (nowOf s), dph := .test }) rfl rfl hrd hwr hall

include hp in
theorem exec_poll_of_allDue : ∃ s', exec .poll s = .next s' ∧ DrainedAt s.wr s' := by
  cases hmode : s.par.pollMode with
  | atomic => rw [exec_poll_of_atomic hmode]; exact pollAtomic_of_allDue hen hhd hrd hwr hne hall
  | interleaved =>
    rw [exec_poll_of_interleaved hmode]
    exact pollInterleaved_of_allDue hp hen hhd hrd hwr hne hall

end Poll

end Sys2Proof.Safety
end

section
/-! PROOFS. Both edges pending at an empty queue: how many entries each order of service leaves, and so the
level the output settles on (70_reset_and_hazards.md R242). -/

namespace Sys2Proof.Safety

open Sys2Proof.Machine

/-! ### The service of an edge -/

/-- The interrupt source of an edge role (R202). -/
def edgeSource : Role → Source
  | .on => .rise
  | .off => .fall

/-- R204, R142: in delayed mode the service of an edge clears its bit and enqueues the target time. -/
theorem service_edge_of_delayed {role : Role} {s : State} (hmay : mayService s (edgeSource role) = true)
    (hen : s.en = true) (hhd : s.hd = true) :
    runEvent (.service (edgeSource role)) s =
      enqueue role ((nowOf s + s.lat) % 2 ^ s.par.w) (acceptSource (edgeSource role) s) := by
  cases role with
  | on => exact (service_rise hmay).trans (edgeHandler_of_delayed .on true hen hhd)
  | off => exact (service_fall hmay).trans (edgeHandler_of_delayed .off false hen hhd)

/-- In delayed mode the queue holds `m` entries in the slots from 0 on, all of the time `t` that an edge
serviced now would write. -/
structure HoldsCopies (m t : Nat) (s : State) : Prop where
  params : paramsOk s.par = true
  enabled : s.en = true
  delayed : s.hd = true
  target : (nowOf s + s.lat) % 2 ^ s.par.w = t
  reader : s.rd = 0
  writer : s.wr = m
  entries : visible s = List.replicate m (some t)

/-- How many entries an edge writes at the writer `m` (R122). -/
def copiesWritten (role : Role) (m : Nat) : Nat := if m % 2 = roleNumber role then 1 else 2

theorem enqueuedTimes_eq_replicate (role : Role) (t : Nat) (s : State) :
    enqueuedTimes role t s = List.replicate (copiesWritten role s.wr) t := by
  unfold enqueuedTimes copiesWritten
  split <;> rfl

theorem afterPushes_wr (ts : List Nat) {s : State} (hwr : s.wr < s.par.n) :
    (afterPushes ts s).wr = (s.wr + ts.length) % s.par.n := by
  induction ts generalizing s with
  | nil => exact (Nat.mod_eq_of_lt hwr).symm
  | cons t ts ih =>
    rw [afterPushes_cons, ih (by simpa using inc_lt (Nat.zero_lt_of_lt hwr) s.wr), afterPush_par, afterPush_wr,
      inc_add_mod, List.length_cons]

/-- R127 (a): an enqueue that finds room appends its copies, and writes nothing but the queue. -/
theorem HoldsCopies.enqueue {role : Role} {m t : Nat} {s : State} (h : HoldsCopies m t s)
    (hroom : m + copiesWritten role m < s.par.n) :
    ∃ s', Machine.enqueue role t s = .next s' ∧ HoldsCopies (m + copiesWritten role m) t s' ∧
      s' = { s with wr := s'.wr, slots := s'.slots, ovfCount := s'.ovfCount } := by
  obtain ⟨heven, hn, -⟩ := paramsOk_conditions h.params
  have hrd : s.rd < s.par.n := by rw [h.reader]; omega
  have hwr : s.wr < s.par.n := by rw [h.writer]; omega
  have hocc : occupancy s = m := by rw [← length_visible, h.entries, List.length_replicate]
  have htimes : enqueuedTimes role t s = List.replicate (copiesWritten role m) t := by
    rw [enqueuedTimes_eq_replicate, h.writer]
  have henq := enqueue_eq_afterPushes role t heven hwr
  have hwriter := afterPushes_wr (enqueuedTimes role t s) hwr
  have hentries := visible_afterPushes (enqueuedTimes role t s) hn hrd hwr
  rw [htimes, List.length_replicate, h.writer, Nat.mod_eq_of_lt hroom] at hwriter
  rw [htimes, List.length_replicate, hocc, Nat.mod_eq_of_lt hroom, Nat.sub_self, List.drop_zero, h.entries,
    List.map_replicate, List.replicate_append_replicate] at hentries
  rw [htimes] at henq
  have hframe := enqueue_frame henq
  refine ⟨_, henq, ⟨?_, ?_, ?_, ?_, ?_, hwriter, hentries⟩, hframe⟩ <;> rw [hframe]
  · exact h.params
  · exact h.enabled
  · exact h.delayed
  · exact h.target
  · exact h.reader

theorem HoldsCopies.acceptSource {role : Role} {m t : Nat} {s : State} (h : HoldsCopies m t s) :
    HoldsCopies m t (Machine.acceptSource (edgeSource role) s) := by
  cases role <;> exact ⟨h.params, h.enabled, h.delayed, h.target, h.reader, h.writer, h.entries⟩

/-- What the service of an edge leaves of the parameters, the phase, the clock and the pending state (R209). -/
structure EdgeServiced (role : Role) (s s' : State) : Prop where
  par : s'.par = s.par
  phase : s'.dph = s.dph
  clock : s'.clock = s.clock
  pending : ∀ src, isPending s' src = isPending (acceptSource (edgeSource role) s) src

theorem HoldsCopies.service {role : Role} {m t : Nat} {s : State} (h : HoldsCopies m t s)
    (hmay : mayService s (edgeSource role) = true) (hroom : m + copiesWritten role m < s.par.n) :
    ∃ s', runEvent (.service (edgeSource role)) s = .next s' ∧ HoldsCopies (m + copiesWritten role m) t s' ∧
      EdgeServiced role s s' := by
  rw [service_edge_of_delayed hmay h.enabled h.delayed, h.target]
  obtain ⟨s', henq, hcopies, hframe⟩ := h.acceptSource.enqueue (by rwa [acceptSource_par])
  refine ⟨s', henq, hcopies, ⟨?_, ?_, ?_, fun src => ?_⟩⟩ <;> rw [hframe]
  · exact acceptSource_par _ s
  · exact acceptSource_dph _ s
  · exact acceptSource_clock _ s
  · rfl

/-! ### Both edges -/

/-- R204: the service of one edge leaves the other pending. -/
theorem isPending_acceptSource_of_ne {first second : Role} (hne : first ≠ second) (s : State) :
    isPending (acceptSource (edgeSource first) s) (edgeSource second) = isPending s (edgeSource second) := by
  cases first with
  | on => cases second with
    | on => exact absurd rfl hne
    | off => rfl
  | off => cases second with
    | on => rfl
    | off => exact absurd rfl hne

/-- R124, R242: a POLL at which the copies are due leaves both cursors behind them. -/
theorem HoldsCopies.exec_poll {m t dt : Nat} {a : State} (h : HoldsCopies m t a) (hpos : 0 < m)
    (hroom : m < a.par.n) (hp : a.dph = .idle)
    (hdue : due a.par.w t ((a.clock + dt) % 2 ^ a.par.w) = true) :
    ∃ a', exec .poll (advanceClock dt a) = .next a' ∧ DrainedAt m a' := by
  have hall : AllDue (nowOf (advanceClock dt a)) (advanceClock dt a) := by
    intro e he
    rw [visible_advanceClock, h.entries] at he
    exact ⟨t, List.eq_of_mem_replicate he, hdue⟩
  have hne : a.rd ≠ a.wr := by
    rw [h.reader, h.writer]
    exact hpos.ne
  rw [← h.writer]
  exact exec_poll_of_allDue (s := advanceClock dt a) hp h.enabled h.delayed
    (h.reader.trans_lt (hpos.trans hroom)) (h.writer.trans_lt hroom) hne hall

section BothEdges

variable {first second : Role} {m t : Nat} {s : State} (h : HoldsCopies 0 t s)
  (hany : s.par.serviceOrder = .any) (hne : first ≠ second) (hfirst : isPending s (edgeSource first) = true)
  (hsecond : isPending s (edgeSource second) = true)
  (hm : copiesWritten first 0 + copiesWritten second (copiesWritten first 0) = m) (hroom : m < s.par.n)
include h hany hne hfirst hsecond hm hroom

theorem services_of_both_edges :
    ∃ a, runEvents [.service (edgeSource first), .service (edgeSource second)] s = .next a ∧
      HoldsCopies m t a ∧ a.par = s.par ∧ a.dph = s.dph ∧ a.clock = s.clock := by
  obtain ⟨s1, hrun1, hcopies1, hkept1⟩ :=
    h.service (role := first) ((mayService_of_any hany _).trans hfirst) (by omega)
  rw [Nat.zero_add] at hcopies1
  have hpar := hkept1.par
  have hpending : isPending s1 (edgeSource second) = true :=
    (hkept1.pending _).trans ((isPending_acceptSource_of_ne hne s).trans hsecond)
  obtain ⟨a, hrun2, hcopies2, hkept2⟩ :=
    hcopies1.service (role := second) ((mayService_of_any (hpar ▸ hany) _).trans hpending) (by rwa [hpar, hm])
  refine ⟨a, ?_, hm ▸ hcopies2, hkept2.par.trans hpar, hkept2.phase.trans hkept1.phase,
    hkept2.clock.trans hkept1.clock⟩
  rw [runEvents_cons, hrun1, andThen_next, runEvents_singleton, hrun2]

/-- R242: `m` entries after the two services, and the parity of `m` after a POLL at which they are due. -/
theorem services_then_poll (hpos : 0 < m) :
    ∃ a, runEvents [.service (edgeSource first), .service (edgeSource second)] s = .next a ∧
      a.wr = m ∧ visible a = List.replicate m (some t) ∧
      ∀ dt, s.dph = .idle → due s.par.w t ((s.clock + dt) % 2 ^ s.par.w) = true →
        ∃ a', exec .poll (advanceClock dt a) = .next a' ∧ a'.rd = a.wr ∧ a'.wr = a.wr ∧
          a'.out = parity m := by
  obtain ⟨a, hrun, ha, hpar, hdph, hclock⟩ := services_of_both_edges h hany hne hfirst hsecond hm hroom
  refine ⟨a, hrun, ha.writer, ha.entries, fun dt hp hdue => ?_⟩
  rw [← hpar] at hroom hdue
  rw [← hclock] at hdue
  obtain ⟨a', hpoll, hdrained⟩ := ha.exec_poll hpos hroom (hdph.trans hp) hdue
  rw [ha.writer]
  exact ⟨a', hpoll, hdrained.reader, hdrained.writer, hdrained.output⟩

end BothEdges

/-- Settles O57: RISE at an even writer and FALL at an odd one write one entry, FALL at writer 0 two. -/
theorem serviceOrderDecidesLevel : Obligations.ServiceOrderDecidesLevel := by
  intro s hp hany hn hen hhd hrd hwr hrise hfall t settlesAt
  have hnone : occupancy s = 0 :=
    (occupancy_eq_zero_iff (by omega) (by omega)).2 (hrd.trans hwr.symm)
  have hempty : HoldsCopies 0 t s := ⟨hp, hen, hhd, rfl, hrd, hwr, visible_eq_nil_iff.2 hnone⟩
  exact ⟨services_then_poll (first := .on) (second := .off) hempty hany nofun hrise hfall rfl
      (by omega) (by decide),
    services_then_poll (first := .off) (second := .on) hempty hany nofun hfall hrise rfl
      (by omega) (by decide)⟩

end Sys2Proof.Safety
end
